-- ==== Sys2Proof/Word.lean ====
section
/-! DEFINITION. The word types of the block: bytes, 16-bit words and 20-bit command words. Every quantity is
unsigned and bit 0 is the least significant bit (spec/00_scope.md R12). -/

namespace Sys2Proof

/-- A buffer slot, an index or an 8-bit register (00_scope.md R10, `BYTE_W`, `IDX_W`). -/
abbrev Byte := BitVec 8

/-- A 16-bit working register or string address (00_scope.md R10, `RES_W`, `PTR_W`). -/
abbrev Half := BitVec 16

/-- A conversion result (00_scope.md R10, `ADC_W`). -/
abbrev Sample := BitVec 10

/-- A word on the command port (30_encoding.md R90, `CMD_W`). -/
abbrev Cmd := BitVec 20

end Sys2Proof
end

