-- ==== Sys2Proof/Syntax.lean ====
section
/-! DEFINITION. The operations of the block: one constructor per row of spec/opcode_table.json (00_scope.md R5;
44_common_semantics.md R220). -/

namespace Sys2Proof

/-- The five commands, the three events, the host macro, and the reserved words. Operand widths are those of the
formats of 30_encoding.md R92. -/
inductive Instr where
  /-- `TXINIT bd` (40_tx_producer.md R120). -/
  | txinit (bd : BitVec 12)
  /-- `TXPUT b` (40_tx_producer.md R124). -/
  | txput (b : Byte)
  /-- `TXPUTS p` (40_tx_producer.md R135). -/
  | txputs (p : Half)
  /-- `ADCCFG df`, `df` the division factor itself (42_adc_sampler.md R180). -/
  | adccfg (df : Byte)
  /-- `ADCSAMPLE ch` (42_adc_sampler.md R187). -/
  | adcsample (ch : BitVec 3)
  /-- `DRAIN`, the interrupt handler's one step (41_tx_drain.md R151). -/
  | drain
  /-- `TX_SENT`, a step of the transmitter (41_tx_drain.md R158). -/
  | txSent
  /-- `ADC_DONE` with the value `v` the converter draws (42_adc_sampler.md R196). -/
  | adcDone (v : Sample)
  /-- `REPORT`, the host macro (43_host_periodic_task.md R210). -/
  | report
  /-- A word selected by no command row (30_encoding.md R97 to R99). -/
  | reserved (w : Cmd)
  deriving DecidableEq, Repr

end Sys2Proof
end

