-- ==== Sys2Proof/WellFormed.lean ====
section
/-! DEFINITION. Well-formed instructions. The operand widths of `Instr` already bound every operand of a command
(30_encoding.md R92 to R94); the one check left is that a `reserved` word really is reserved. -/

namespace Sys2Proof

/-- A word selected by none of the five rows of 30_encoding.md R95: a reserved opcode (R97) or a nonzero
must-be-zero bit (R98). Written from the match and mask columns. -/
def isReservedWord (w : Cmd) : Bool :=
  (w &&& 0xFF000) != 0x10000 && (w &&& 0xFFF00) != 0x20000 && (w &&& 0xF0000) != 0x30000
    && (w &&& 0xFFF00) != 0x40000 && (w &&& 0xFFFF8) != 0x50000

/-- The check of one instruction. -/
def Instr.wellFormed : Instr → Bool
  | .txinit _ => true
  | .txput _ => true
  | .txputs _ => true
  | .adccfg _ => true
  | .adcsample _ => true
  | .drain => true
  | .txSent => true
  | .adcDone _ => true
  | .report => true
  | .reserved w => isReservedWord w

end Sys2Proof
end

