-- ==== Sys2Proof/Decode.lean ====
section
/-! DEFINITION. The decoder of the command port and its inverse (30_encoding.md R90 to R100, R109). -/

namespace Sys2Proof

/-- `decode` of 30_encoding.md R109: total, with the outcome `reserved` for every word no row selects. -/
def decode (w : Cmd) : Instr :=
  if w.extractLsb' 12 8 = 0x10 then .txinit (w.extractLsb' 0 12)
  else if w.extractLsb' 8 12 = 0x200 then .txput (w.extractLsb' 0 8)
  else if w.extractLsb' 16 4 = 0x3 then .txputs (w.extractLsb' 0 16)
  else if w.extractLsb' 8 12 = 0x400 then .adccfg (w.extractLsb' 0 8)
  else if w.extractLsb' 3 17 = 0xA000 then .adcsample (w.extractLsb' 0 3)
  else .reserved w

/-- `encode` of 30_encoding.md R109; the events and the macro have no encoding (R96, R103). -/
def encode : Instr → Option Cmd
  | .txinit bd => some (0x10000 + bd.setWidth 20)
  | .txput b => some (0x20000 + b.setWidth 20)
  | .txputs p => some (0x30000 + p.setWidth 20)
  | .adccfg df => some (0x40000 + df.setWidth 20)
  | .adcsample ch => some (0x50000 + ch.setWidth 20)
  | .drain => none
  | .txSent => none
  | .adcDone _ => none
  | .report => none
  | .reserved w => some w

/-- The word on the 20-bit port for an instruction whose bits are `w`. A number of more than 20 bits is no word of
the port; the reserved word of an undriven port (30_encoding.md R97) stands for it. DESIGN CHOICE, safe (log 20). -/
def portWord (w : Nat) : Cmd :=
  if w < 2 ^ 20 then BitVec.ofNat 20 w else 0

/-- The decoder's reading of an instruction whose bits are `w`; none where no row selects the word. -/
def decodeTableWord (_nbits w : Nat) : Option Instr :=
  match decode (portWord w) with
  | .reserved _ => none
  | i => some i

end Sys2Proof
end

