-- ==== Sys2Proof/Config.lean ====
section
/-! DEFINITION. The parameters of 00_scope.md R10, the open parameters as opaque constants, and the free choice of
the next move (93_implementation_defined.md U9, U10, U11). -/

namespace Sys2Proof

/-- A move of one of the agents or of the host, as the schedule names it (00_scope.md R16; 44_common_semantics.md
R220; 60_exceptions.md R252). `storeStr` is the host placing one byte of a string in `STR`
(log 9). DESIGN CHOICE, safe
(log 4): the schedule is a list of these. -/
inductive Move where
  | command (w : Cmd)
  | foreground
  | drain
  | txSent
  | adcDone (v : Sample)
  | report
  | writeGie (b : Bool)
  | storeStr (a : Half) (v : Byte)
  deriving DecidableEq, Repr, Inhabited

namespace Config

/-- `RB_N` of this hardware (00_scope.md R10): the number of slots `State.reset` gives the ring buffer. -/
def rbN : Nat := 64

/-- `FRAME_8N1` (10_state.md R33). -/
def frame8N1 : Byte := 0x06

/-- `THRESH` (00_scope.md R10; 43_host_periodic_task.md R212). -/
def threshold : Nat := 512

/-- What a byte of `STR` that the list does not name reads as. DESIGN CHOICE, unsafe (log 8): the spec gives `STR`
no contents. -/
def unlistedByte : Byte := 0

/-- `REF_MODE`, open in the spec (42_adc_sampler.md R186; 92_eei_decisions.md D20). Nothing constrains it (log 2). -/
opaque refMode : BitVec 2

/-- `REPORT_CH`, open in the spec (92_eei_decisions.md D28). Nothing constrains it (log 3). -/
opaque reportCh : BitVec 3

/-- The free move: which agent steps next, and with which value, when `State.script` names none. Nothing constrains
it, so a statement about it holds for every schedule and every conversion value (93_implementation_defined.md U9,
U11; log 4). -/
opaque freeMove : Nat → Move

end Config

end Sys2Proof
end

