-- ==== Sys2Proof/Machine/State.lean ====
section
/-! DEFINITION. The state of the block (`Block`: exactly the elements of 10_state.md R20 with the histories of R38), the
machine around it (`State`: the block, the host memory `STR`, the model's own fields for the host, the schedule and the
draws), and the reset state (10_state.md R49). -/

namespace Sys2Proof.Machine

/-- The micro-steps of `TXINIT` (40_tx_producer.md R121). -/
inductive InitLabel where
  | i0 | i1 | i2 | i3 | i4 | i5
  deriving DecidableEq, Repr

/-- The micro-steps of an enqueue (40_tx_producer.md R125 to R129). -/
inductive EnqLabel where
  | p0 | p1 | p2 | p3 | p4
  deriving DecidableEq, Repr

/-- The micro-steps of `TXPUTS` around its embedded enqueues (40_tx_producer.md R136). -/
inductive StrLabel where
  | t0 | t1 | t2
  deriving DecidableEq, Repr

/-- The micro-steps of `ADCCFG` (42_adc_sampler.md R181). -/
inductive CfgLabel where
  | c0 | c1
  deriving DecidableEq, Repr

/-- The micro-steps of `ADCSAMPLE` (42_adc_sampler.md R188 to R191). -/
inductive SmpLabel where
  | s0 | s1 | s2 | s3
  deriving DecidableEq, Repr

/-- The values of `FGPC` (10_state.md R41). The rule's table lists 21 values although its first line says 19; the
table is followed (log 16). -/
inductive Fgpc where
  | idle
  | init (k : InitLabel)
  | enq (k : EnqLabel)
  | str (k : StrLabel)
  | cfg (k : CfgLabel)
  | smp (k : SmpLabel)
  deriving DecidableEq, Repr

/-- Where the host stands inside `REPORT` (43_host_periodic_task.md R210): outside it, waiting for the sample, or
with the byte `c` and then `rest` still to be presented. The model's own field, DESIGN CHOICE, safe (log 18). -/
inductive HostPc where
  | idle
  | sampling
  | sending (c : Byte) (rest : List Byte)
  deriving DecidableEq, Repr

/-- The host string memory `STR` (20_memory.md R63) as the list of the bytes that differ from
`Config.unlistedByte`, addresses strictly rising (log 8). -/
abbrev Memory := List Host.Cell

/-- The state of the block: exactly the elements of the table of 10_state.md R20 and the two histories of R38, under the
spec's names, and nothing else; `RB_N` is the number of slots of `buf` (log 1). -/
structure Block where
  /-- `BUF` (R21). -/
  buf : List Byte
  /-- `HEAD` (R22). -/
  head : Byte
  /-- `TAIL` (R23). -/
  tail : Byte
  /-- `UCTRL` (R32). -/
  uctrl : Byte
  /-- `UFRAME` (R33). -/
  uframe : Byte
  /-- `BAUDDIV` (R34). -/
  bauddiv : BitVec 12
  /-- `USTAT` (R35). -/
  ustat : Byte
  /-- `TXDATA` (R36). -/
  txdata : Byte
  /-- `GIE` (R37). -/
  gie : Bool
  /-- `NEXT` (R39). -/
  next : Byte
  /-- `BYTE` (R39). -/
  byte : Byte
  /-- `PTR` (R39). -/
  ptr : Half
  /-- `RESULT` (R39). -/
  result : Half
  /-- `ARG` (R39; 30_encoding.md R106). -/
  arg : Half
  /-- `FGPC` (R40, R41). -/
  fgpc : Fgpc
  /-- `INSTR` (R41): true when `P0` to `P4` run on behalf of `TXPUTS`. -/
  instr : Bool
  /-- `AMUX` (R42). -/
  amux : Byte
  /-- `ACTRL` (R43). -/
  actrl : Byte
  /-- `ADATA` (R44). -/
  adata : Sample
  /-- `DOUT` (R45). -/
  dout : Bool
  /-- `TXLOG` (R38), oldest byte first. -/
  txlog : List Byte
  /-- `WIRE` (R38), oldest byte first. -/
  wire : List Byte
  deriving DecidableEq, Repr

/-- The machine that `step` runs: the block, and beside it what 10_state.md R48 calls parameters and oracles of the step
relation, held as plain data. None of the four is state of the block (log 4, log 8, log 18). -/
structure State extends Block where
  /-- `STR` (20_memory.md R63), a parameter of the step relation by R48, held as data (log 8). -/
  str : Memory
  /-- The host's place in `REPORT`; the model's own (log 18). -/
  hostpc : HostPc
  /-- The moves to come, first move first; the model's own (log 4). -/
  script : List Move
  /-- How many free moves have been drawn; the model's own (log 4). -/
  draws : Nat
  deriving DecidableEq, Repr

/-- Why the machine stops with a fault. The block itself raises none (60_exceptions.md R230). -/
inductive Fault where
  /-- Raised by `P2` of `TXPUT` and `TXPUTS` and by `DRAIN` when the slot index is not below `RB_N`: there is no such
  slot (20_memory.md R61). Safe: no reachable state does it (10_state.md R24). -/
  | slotOutOfRange
  deriving DecidableEq, Repr

/-- Why the model gives an input no meaning (`refuse`, 00_scope.md R15). Each is safe: the model stops where the
hardware's behaviour is not stated or where the step cannot be taken. -/
inductive Refusal where
  /-- Raised by an arm of `exec` whose instruction has no meaning yet; safe. No arm raises it. -/
  | notModelled (mnemonic : String)
  /-- Raised by the meaning of a reserved word (30_encoding.md R99; 93_implementation_defined.md U5); safe. -/
  | reservedWord
  /-- Raised by `ADCCFG` for a factor outside `DIV_SET` (42_adc_sampler.md R184; 93 U1); safe. -/
  | illegalDivisor
  /-- Raised by `TXPUT`, `TXPUTS` and `REPORT` without `TX_READY` (40_tx_producer.md R130; 93 U3); safe. -/
  | txNotReady
  /-- Raised by `ADCSAMPLE` and `REPORT` without `ADC_READY` (42_adc_sampler.md R192; 93 U4); safe. -/
  | adcNotReady
  /-- Raised by `TXPUTS` when no zero byte lies from its address to 0xFFFF (93 U6); safe. -/
  | unterminatedString
  /-- Raised by a command or by `REPORT` while another command is in progress: it cannot be presented
  (30_encoding.md R91); safe. -/
  | portNotReady
  /-- Raised by `DRAIN` when its trigger is false: it cannot step (41_tx_drain.md R150); safe. -/
  | drainNotEnabled
  /-- Raised by `TX_SENT` when `UDRE` is 1: it is not enabled (41_tx_drain.md R158); safe. -/
  | txSentNotEnabled
  /-- Raised by `ADC_DONE` when `ADSC` is 0: it is not enabled (42_adc_sampler.md R196); safe. -/
  | adcDoneNotEnabled
  deriving DecidableEq, Repr

/-- The outcome of a step or of a meaning. -/
abbrev Result := Host.Outcome State Fault Refusal

/-- The state right after reset (10_state.md R49; 70_reset_and_hazards.md R260). The elements R49 marks unspecified
are 0: DESIGN CHOICE, unsafe (log 7). -/
def State.reset : State where
  buf := List.replicate Config.rbN 0
  head := 0
  tail := 0
  uctrl := 0x00
  uframe := 0
  bauddiv := 0
  ustat := 0x20
  txdata := 0
  gie := false
  next := 0
  byte := 0
  ptr := 0
  result := 0
  arg := 0
  fgpc := .idle
  instr := false
  amux := 0
  actrl := 0
  adata := 0
  dout := false
  txlog := []
  wire := []
  str := []
  hostpc := .idle
  script := []
  draws := 0

end Sys2Proof.Machine
end

