-- ==== Sys2Proof/Machine/Flags.lean ====
section
/-! DEFINITION. The flags and fields of the control and status registers, and how each is written
(10_state.md R32, R35, R42, R43, R46; 00_scope.md R13). -/

namespace Sys2Proof.Machine

/-- The bit of `r` that the one-bit `mask` selects. -/
def flagOf (mask r : Byte) : Bool := r &&& mask != 0

/-- `REG.FIELD <- b` for a one-bit field: every other bit keeps its value (00_scope.md R13). -/
def withFlag (mask r : Byte) (b : Bool) : Byte :=
  if b then r ||| mask else r &&& ~~~mask

/-- `REG.FIELD <- v` with `v` already in the field's place: every other bit keeps its value (00_scope.md R13;
44_common_semantics.md R221). -/
def withField (mask r v : Byte) : Byte := (r &&& ~~~mask) ||| (v &&& mask)

/-- `UCTRL.UDRIE`, bit 5 (R32). -/
def udrieMask : Byte := 0x20
/-- `UCTRL.RXEN`, bit 4 (R32). -/
def rxenMask : Byte := 0x10
/-- `UCTRL.TXEN`, bit 3 (R32). -/
def txenMask : Byte := 0x08
/-- `USTAT.UDRE`, bit 5 (R35). -/
def udreMask : Byte := 0x20
/-- `AMUX.REFS`, bits 7:6 (R42). -/
def refsMask : Byte := 0xC0
/-- `AMUX.CHSEL`, bits 2:0 (R42). -/
def chselMask : Byte := 0x07
/-- `ACTRL.ADEN`, bit 7 (R43). -/
def adenMask : Byte := 0x80
/-- `ACTRL.ADSC`, bit 6 (R43). -/
def adscMask : Byte := 0x40
/-- `ACTRL.ADPS`, bits 2:0 (R43). -/
def adpsMask : Byte := 0x07

/-- `UCTRL.UDRIE`. -/
def State.udrie (s : State) : Bool := flagOf udrieMask s.uctrl
/-- `UCTRL.RXEN`. -/
def State.rxen (s : State) : Bool := flagOf rxenMask s.uctrl
/-- `UCTRL.TXEN`. -/
def State.txen (s : State) : Bool := flagOf txenMask s.uctrl
/-- `USTAT.UDRE`. -/
def State.udre (s : State) : Bool := flagOf udreMask s.ustat
/-- `AMUX.REFS`. -/
def State.refs (s : State) : BitVec 2 := s.amux.extractLsb' 6 2
/-- `AMUX.CHSEL`. -/
def State.chsel (s : State) : BitVec 3 := s.amux.extractLsb' 0 3
/-- `ACTRL.ADEN`. -/
def State.aden (s : State) : Bool := flagOf adenMask s.actrl
/-- `ACTRL.ADSC`. -/
def State.adsc (s : State) : Bool := flagOf adscMask s.actrl
/-- `ACTRL.ADPS`. -/
def State.adps (s : State) : BitVec 3 := s.actrl.extractLsb' 0 3

/-- `UCTRL.UDRIE <- b`, one atomic field write (20_memory.md R68; 70_reset_and_hazards.md R271). -/
def State.setUdrie (s : State) (b : Bool) : State := { s with uctrl := withFlag udrieMask s.uctrl b }

/-- `UCTRL.TXEN <- b`. -/
def State.setTxen (s : State) (b : Bool) : State := { s with uctrl := withFlag txenMask s.uctrl b }

/-- `USTAT.UDRE <- b`, made by hardware only (R35). -/
def State.setUdre (s : State) (b : Bool) : State := { s with ustat := withFlag udreMask s.ustat b }

/-- `AMUX.REFS <- r`. -/
def State.setRefs (s : State) (r : BitVec 2) : State :=
  { s with amux := withField refsMask s.amux (r.setWidth 8 <<< 6) }

/-- `AMUX.CHSEL <- c`. -/
def State.setChsel (s : State) (c : BitVec 3) : State :=
  { s with amux := withField chselMask s.amux (c.setWidth 8) }

/-- `ACTRL.ADEN <- b`. -/
def State.setAden (s : State) (b : Bool) : State := { s with actrl := withFlag adenMask s.actrl b }

/-- `ACTRL.ADSC <- b`. -/
def State.setAdsc (s : State) (b : Bool) : State := { s with actrl := withFlag adscMask s.actrl b }

/-- `ACTRL.ADPS <- c`. -/
def State.setAdps (s : State) (c : BitVec 3) : State :=
  { s with actrl := withField adpsMask s.actrl (c.setWidth 8) }

/-- `TX_READY` (10_state.md R50). -/
def State.txReady (s : State) : Bool :=
  s.txen && match s.fgpc with
    | .init _ => false
    | _ => true

/-- `ADC_READY` (10_state.md R50). -/
def State.adcReady (s : State) : Bool :=
  s.aden && match s.fgpc with
    | .cfg _ => false
    | _ => true

/-- The trigger of `DRAIN`: a level on the current state, not latched (41_tx_drain.md R150; 10_state.md R47). -/
def State.drainEnabled (s : State) : Bool := s.gie && s.udrie && s.udre

/-- The enabling condition of `TX_SENT` (41_tx_drain.md R158). -/
def State.txSentEnabled (s : State) : Bool := !s.udre

/-- The enabling condition of `ADC_DONE` (42_adc_sampler.md R196). -/
def State.adcDoneEnabled (s : State) : Bool := s.adsc

end Sys2Proof.Machine
end

