-- ==== Sys2Proof/Machine/Operands.lean ====
section
/-! DEFINITION. Operands and the arithmetic of 44_common_semantics.md R221: index increment, the argument latch, the
prescaler table, the decimal digits of a report, and the command in progress. -/

namespace Sys2Proof.Machine

/-- `inc_mod` of 00_scope.md R14 for a buffer of `n` slots: a true modulo of the untruncated sum. -/
def incMod (n : Nat) (i : Byte) : Byte := BitVec.ofNat 8 ((i.toNat + 1) % n)

/-- `RB_N`: the number of slots of the ring buffer (00_scope.md R10; log 1). -/
def State.rbN (s : State) : Nat := s.buf.length

/-- The buffer is empty (10_state.md R25). -/
def State.isEmpty (s : State) : Bool := s.head == s.tail

/-- The buffer is full (10_state.md R26). -/
def State.isFull (s : State) : Bool := incMod s.rbN s.head == s.tail

/-- `bd = ARG[11:0]` (30_encoding.md R106). -/
def State.argDivisor (s : State) : BitVec 12 := s.arg.extractLsb' 0 12

/-- `ARG[7:0]`, the byte of `TXPUT` and the factor of `ADCCFG` (30_encoding.md R106). -/
def State.argByte (s : State) : Byte := s.arg.extractLsb' 0 8

/-- `ch = ARG[2:0]` (30_encoding.md R106). -/
def State.argChannel (s : State) : BitVec 3 := s.arg.extractLsb' 0 3

/-- `ps_code` of 42_adc_sampler.md R182; undefined outside `DIV_SET`. -/
def psCode (df : Byte) : Option (BitVec 3) :=
  if df = 4 then some 0b010
  else if df = 8 then some 0b011
  else if df = 16 then some 0b100
  else if df = 32 then some 0b101
  else if df = 64 then some 0b110
  else if df = 128 then some 0b111
  else none

/-- The ASCII code of the decimal digit `d` (43_host_periodic_task.md R213, R214). -/
def digitByte (d : Nat) : Byte := BitVec.ofNat 8 (0x30 + d)

/-- `dec(v)` (43_host_periodic_task.md R213): the digits of `v` from the thousands on, leading zeros dropped. -/
def decimal (v : Nat) : List Byte :=
  let d3 := v / 1000
  let d2 := v / 100 % 10
  let d1 := v / 10 % 10
  let d0 := v % 10
  if d3 ≠ 0 then [digitByte d3, digitByte d2, digitByte d1, digitByte d0]
  else if d2 ≠ 0 then [digitByte d2, digitByte d1, digitByte d0]
  else if d1 ≠ 0 then [digitByte d1, digitByte d0]
  else [digitByte d0]

/-- The bytes of one report: `dec(v)`, carriage return, line feed (43_host_periodic_task.md R210, R215). -/
def reportBytes (v : Nat) : List Byte := decimal v ++ [0x0D, 0x0A]

/-- The command in progress, read back from `FGPC`, `INSTR` and `ARG` (10_state.md R41; 30_encoding.md R106).
DEDUCED, safe (log 17). -/
def State.inProgress (s : State) : Option Instr :=
  match s.fgpc with
  | .idle => none
  | .init _ => some (.txinit s.argDivisor)
  | .enq _ => if s.instr then some (.txputs s.arg) else some (.txput s.argByte)
  | .str _ => some (.txputs s.arg)
  | .cfg _ => some (.adccfg s.argByte)
  | .smp _ => some (.adcsample s.argChannel)

end Sys2Proof.Machine
end

