-- ==== Sys2Proof/Machine/Ops.lean ====
section
/-! DEFINITION. The named operations over memory and registers: `STR`, the slots of `BUF`, the transmit data register,
the converter handshake, acceptance of a command. The block takes no exception and returns from none
(60_exceptions.md R230, R241); its one interrupt is `DRAIN` (Machine/Drain.lean). -/

namespace Sys2Proof.Machine

/-- `MemRead(addr, 1)` (00_scope.md R13; 20_memory.md R63). -/
def Memory.read : Memory → Nat → Byte
  | [], _ => Config.unlistedByte
  | (c, v) :: m, a => if a = c then v else Memory.read m a

/-- The memory with the byte `v` at `a`, in canonical form. The host's write; the block never writes `STR`
(20_memory.md R63). -/
def Memory.write : Memory → Nat → Byte → Memory
  | [], a, v => if v = Config.unlistedByte then [] else [(a, v)]
  | (c, u) :: m, a, v =>
    if a < c then (if v = Config.unlistedByte then (c, u) :: m else (a, v) :: (c, u) :: m)
    else if a = c then (if v = Config.unlistedByte then m else (a, v) :: m)
    else (c, u) :: Memory.write m a v

/-- Addresses from `lo` on, strictly rising, below 2^16, and no entry equal to what an unlisted address reads as. -/
def Memory.wfFrom : Nat → Memory → Bool
  | _, [] => true
  | lo, (a, v) :: m => decide (lo ≤ a) && decide (a < 2 ^ 16) && (v != Config.unlistedByte) && Memory.wfFrom (a + 1) m

/-- The canonical form of `STR`. -/
def Memory.wf (m : Memory) : Bool := Memory.wfFrom 0 m

/-- The string placed from address `a` on, one zero byte after it: the effect of `.asciz` (30_encoding.md R102). Past
0xFFFF the address wraps modulo 2^16, and a byte already placed is overwritten: DESIGN CHOICE, unsafe (log 26). -/
def Memory.placeString : Memory → Half → List Byte → Memory
  | m, a, [] => m.write a.toNat 0
  | m, a, b :: bs => Memory.placeString (m.write a.toNat b) (a + 1) bs

/-- A zero byte lies among the `n` bytes from `a` on. -/
def Memory.zeroWithin (m : Memory) : Nat → Nat → Bool
  | 0, _ => false
  | n + 1, a => m.read a == 0 || Memory.zeroWithin m n (a + 1)

/-- A zero byte lies in `STR[p .. 0xFFFF]` (93_implementation_defined.md U6). -/
def Memory.terminated (m : Memory) (p : Half) : Bool := m.zeroWithin (2 ^ 16 - p.toNat) p.toNat

/-- The address `a` lies in the zero-terminated string at `p`, its terminator included (20_memory.md R63). -/
def Memory.inString (m : Memory) (p a : Nat) : Bool := decide (p ≤ a) && !m.zeroWithin (a - p) p

/-- The address lies in the string of the `TXPUTS` in progress, which the host must not change before that command
retires (20_memory.md R63, R79; 60_exceptions.md R252). -/
def State.readsString (s : State) (a : Half) : Bool :=
  match s.inProgress with
  | some (.txputs p) => s.str.inString p.toNat a.toNat
  | _ => false

/-- `BUF[i]`; none where there is no slot `i` (20_memory.md R61). -/
def State.readSlot (s : State) (i : Byte) : Option Byte := s.buf[i.toNat]?

/-- `BUF[i] <- v`; none where there is no slot `i` (20_memory.md R61). -/
def State.writeSlot (s : State) (i v : Byte) : Option State :=
  if i.toNat < s.rbN then some { s with buf := s.buf.set i.toNat v } else none

/-- `FGPC <- l` (00_scope.md R15): `goto l`, and `retire` for the label `idle`. -/
def State.goto (s : State) (l : Fgpc) : State := { s with fgpc := l }

/-- A write to `TXDATA` with its side effects (10_state.md R36; 20_memory.md R69). -/
def State.writeTxdata (s : State) (b : Byte) : State :=
  { s.setUdre false with txdata := b, txlog := s.txlog ++ [b] }

/-- The transmitter has sent the byte in `TXDATA` (41_tx_drain.md R158). -/
def State.byteSent (s : State) : State :=
  { s.setUdre true with wire := s.wire ++ [s.txdata] }

/-- The converter delivers `v` (42_adc_sampler.md R196). -/
def State.conversionDone (s : State) (v : Sample) : State :=
  { s.setAdsc false with adata := v }

/-- Acceptance (30_encoding.md R91): the argument is latched and `FGPC` goes to the command's first label. -/
def State.latch (s : State) (arg : Half) (first : Fgpc) : State :=
  { s with arg := arg, fgpc := first }

/-- Acceptance of `TXPUT b` (30_encoding.md R91), by a host command or by `REPORT`. -/
def State.acceptPut (s : State) (b : Byte) : State :=
  { s.latch (b.setWidth 16) (.enq .p0) with byte := b, instr := false }

/-- Acceptance of `ADCSAMPLE ch` (30_encoding.md R91), by a host command or by `REPORT`. -/
def State.acceptSample (s : State) (ch : BitVec 3) : State :=
  s.latch (ch.setWidth 16) (.smp .s0)

end Sys2Proof.Machine
end

