-- ==== Sys2Proof/Machine/Drain.lean ====
section
/-! DEFINITION. The interrupt handler `DRAIN`, one atomic step that saves and restores nothing (60_exceptions.md R239 to
R241), and the transmitter's step `TX_SENT` (41_tx_drain.md). -/

namespace Sys2Proof.Machine

/-- The action of `DRAIN` (41_tx_drain.md R152): disarm on empty, else advance `TAIL` and then emit the slot at the
new `TAIL`. -/
def State.drainAction (s : State) : Result :=
  if s.isEmpty then .next (s.setUdrie false)
  else
    match s.readSlot (incMod s.rbN s.tail) with
    | some b => .next ({ s with tail := incMod s.rbN s.tail }.writeTxdata b)
    | none => .fault .slotOutOfRange

/-- `DRAIN` (41_tx_drain.md R150 to R152). -/
def execDrain (s : State) : Result :=
  if s.drainEnabled then s.drainAction else .refused .drainNotEnabled

/-- `TX_SENT` (41_tx_drain.md R158). -/
def execTxSent (s : State) : Result :=
  if s.txSentEnabled then .next s.byteSent else .refused .txSentNotEnabled

end Sys2Proof.Machine
end

