-- ==== Sys2Proof/Machine/Producer.lean ====
section
/-! DEFINITION. The producer commands `TXINIT`, `TXPUT`, `TXPUTS` (40_tx_producer.md). A meaning is ONE step of the
foreground on behalf of its command: acceptance when `FGPC = IDLE`, else the micro-step at `FGPC` when the command in
progress is this one (log 17). -/

namespace Sys2Proof.Machine

/-- The micro-steps of `TXINIT` (40_tx_producer.md R121). -/
def initStep (k : InitLabel) (s : State) : State :=
  match k with
  | .i0 => { s with gie := false, fgpc := .init .i1 }
  | .i1 => { s with bauddiv := s.argDivisor, fgpc := .init .i2 }
  | .i2 => ((s.setTxen true).setUdrie false).goto (.init .i3)
  | .i3 => { s with uframe := Config.frame8N1, fgpc := .init .i4 }
  | .i4 => { s with head := 0, tail := 0, fgpc := .init .i5 }
  | .i5 => { s with gie := true, fgpc := .idle }

/-- The micro-steps of an enqueue, shared by `TXPUT` and `TXPUTS` (40_tx_producer.md R125 to R129). At `P1` a full
buffer spins: the state stays as it is and the next `P1` reads `TAIL` afresh. -/
def enqueueStep (k : EnqLabel) (s : State) : Result :=
  match k with
  | .p0 => .next { s with next := incMod s.rbN s.head, fgpc := .enq .p1 }
  | .p1 => if s.next = s.tail then .next s else .next (s.goto (.enq .p2))
  | .p2 =>
    match s.writeSlot s.next s.byte with
    | some t => .next (t.goto (.enq .p3))
    | none => .fault .slotOutOfRange
  | .p3 => .next { s with head := s.next, fgpc := .enq .p4 }
  | .p4 => .next ((s.setUdrie true).goto (if s.instr then .str .t2 else .idle))

/-- The micro-steps of `TXPUTS` around its embedded enqueues (40_tx_producer.md R136). -/
def stringStep (k : StrLabel) (s : State) : State :=
  match k with
  | .t0 => { s with ptr := s.arg, fgpc := .str .t1 }
  | .t1 =>
    { s with
      byte := s.str.read s.ptr.toNat
      fgpc := if s.str.read s.ptr.toNat = 0 then .idle else .enq .p0 }
  | .t2 => { s with ptr := s.ptr + 1, fgpc := .str .t1 }

/-- `TXINIT bd` (40_tx_producer.md R120, R121). -/
def execTxinit (bd : BitVec 12) (s : State) : Result :=
  match s.fgpc with
  | .idle => .next (s.latch (bd.setWidth 16) (.init .i0))
  | .init k => if s.inProgress = some (.txinit bd) then .next (initStep k s) else .refused .portNotReady
  | _ => .refused .portNotReady

/-- `TXPUT b` (40_tx_producer.md R124 to R130). -/
def execTxput (b : Byte) (s : State) : Result :=
  match s.fgpc with
  | .idle => if s.txReady then .next (s.acceptPut b) else .refused .txNotReady
  | .enq k => if s.inProgress = some (.txput b) then enqueueStep k s else .refused .portNotReady
  | _ => .refused .portNotReady

/-- `TXPUTS p` (40_tx_producer.md R130, R135, R136; 93_implementation_defined.md U6). -/
def execTxputs (p : Half) (s : State) : Result :=
  match s.fgpc with
  | .idle =>
    if !s.txReady then .refused .txNotReady
    else if s.str.terminated p then .next { s.latch p (.str .t0) with instr := true }
    else .refused .unterminatedString
  | .enq k => if s.inProgress = some (.txputs p) then enqueueStep k s else .refused .portNotReady
  | .str k => if s.inProgress = some (.txputs p) then .next (stringStep k s) else .refused .portNotReady
  | _ => .refused .portNotReady

end Sys2Proof.Machine
end

