-- ==== Sys2Proof/Machine/Report.lean ====
section
/-! DEFINITION. The host macro `REPORT` (43_host_periodic_task.md) and the meaning of a reserved word. -/

namespace Sys2Proof.Machine

/-- Where the host stands once the first of the bytes still to be presented has been presented. -/
def HostPc.ofRest : List Byte → HostPc
  | [] => .idle
  | c :: rest => .sending c rest

/-- The host's own step of `REPORT` after the sample has retired: `v <- RESULT`, `DOUT <- (v > 512)`, and the bytes to
send are `dec(v)`, CR, LF (43_host_periodic_task.md R210, R212, R213). -/
def State.reportDecide (s : State) : State :=
  { s with
    dout := decide (Config.threshold < s.result.toNat)
    hostpc := HostPc.ofRest (reportBytes s.result.toNat) }

/-- `REPORT` (43_host_periodic_task.md R210): ONE step of the host inside the macro, taken only when `FGPC = IDLE`, so
that each command is presented after the one before it retired (R211). The steps are: present `ADCSAMPLE REPORT_CH`;
decide; present `TXPUT c` for each byte in order (log 18). -/
def execReport (s : State) : Result :=
  if s.fgpc = .idle then
    match s.hostpc with
    | .idle =>
      if !s.adcReady then .refused .adcNotReady
      else if !s.txReady then .refused .txNotReady
      else .next { s.acceptSample Config.reportCh with hostpc := .sampling }
    | .sampling => .next s.reportDecide
    | .sending c rest =>
      if s.txReady then .next { s.acceptPut c with hostpc := HostPc.ofRest rest } else .refused .txNotReady
  else .refused .portNotReady

/-- A reserved word is not accepted; the model refuses it (30_encoding.md R99). -/
def execReserved (_w : Cmd) (_s : State) : Result := .refused .reservedWord

end Sys2Proof.Machine
end

