-- ==== Sys2Proof/Machine/Sampler.lean ====
section
/-! DEFINITION. The sampler commands `ADCCFG`, `ADCSAMPLE` and the converter's step `ADC_DONE` (42_adc_sampler.md). A
command's meaning is one step of the foreground on its behalf, as in Machine/Producer.lean. -/

namespace Sys2Proof.Machine

/-- The micro-steps of `ADCCFG` for the prescaler code `code` (42_adc_sampler.md R181). -/
def configStep (code : BitVec 3) (k : CfgLabel) (s : State) : State :=
  match k with
  | .c0 => (s.setRefs Config.refMode).goto (.cfg .c1)
  | .c1 => ((s.setAden true).setAdps code).goto .idle

/-- The micro-steps of `ADCSAMPLE` (42_adc_sampler.md R188 to R191). At `S2` a running conversion spins. -/
def sampleStep (k : SmpLabel) (s : State) : State :=
  match k with
  | .s0 => (s.setChsel s.argChannel).goto (.smp .s1)
  | .s1 => (s.setAdsc true).goto (.smp .s2)
  | .s2 => if s.adsc then s else s.goto (.smp .s3)
  | .s3 => { s with result := s.adata.setWidth 16, fgpc := .idle }

/-- `ADCCFG df` (42_adc_sampler.md R180, R181, R184). A second one runs again (R185; log 14). -/
def execAdccfg (df : Byte) (s : State) : Result :=
  match s.fgpc with
  | .idle =>
    match psCode df with
    | some _ => .next (s.latch (df.setWidth 16) (.cfg .c0))
    | none => .refused .illegalDivisor
  | .cfg k =>
    if s.inProgress = some (.adccfg df) then
      match psCode df with
      | some code => .next (configStep code k s)
      | none => .refused .illegalDivisor
    else .refused .portNotReady
  | _ => .refused .portNotReady

/-- `ADCSAMPLE ch` (42_adc_sampler.md R187 to R192). -/
def execAdcsample (ch : BitVec 3) (s : State) : Result :=
  match s.fgpc with
  | .idle => if s.adcReady then .next (s.acceptSample ch) else .refused .adcNotReady
  | .smp k => if s.inProgress = some (.adcsample ch) then .next (sampleStep k s) else .refused .portNotReady
  | _ => .refused .portNotReady

/-- `ADC_DONE` with the drawn value `v` (42_adc_sampler.md R196). -/
def execAdcDone (v : Sample) (s : State) : Result :=
  if s.adcDoneEnabled then .next (s.conversionDone v) else .refused .adcDoneNotEnabled

end Sys2Proof.Machine
end

