-- ==== Sys2Proof/Machine/Dispatch.lean ====
section
/-! DEFINITION. The dispatch: one arm per row of spec/opcode_table.json. -/

namespace Sys2Proof.Machine

def exec (i : Instr) (s : State) : Host.Outcome State Fault Refusal :=
  match i with
  | .txinit bd => Sys2Proof.Machine.execTxinit bd s
  | .txput b => Sys2Proof.Machine.execTxput b s
  | .txputs p => Sys2Proof.Machine.execTxputs p s
  | .adccfg df => Sys2Proof.Machine.execAdccfg df s
  | .adcsample ch => Sys2Proof.Machine.execAdcsample ch s
  | .drain => Sys2Proof.Machine.execDrain s
  | .txSent => Sys2Proof.Machine.execTxSent s
  | .adcDone v => Sys2Proof.Machine.execAdcDone v s
  | .report => Sys2Proof.Machine.execReport s
  | .reserved w => Sys2Proof.Machine.execReserved w s

end Sys2Proof.Machine
end

