-- ==== Sys2Proof/Machine/Schedule.lean ====
section
/-! DEFINITION. Which agent steps next and what its move does (00_scope.md R16; 60_exceptions.md R237, R252), and runs
of several moves. -/

namespace Sys2Proof.Machine

/-- The command port is ready for the host (30_encoding.md R91) and the host is not inside `REPORT`, whose commands it
presents one after another (43_host_periodic_task.md R211). -/
def State.portReady (s : State) : Bool := s.fgpc == .idle && s.hostpc == .idle

/-- The move is one its agent can take in this state. The host writes `GIE` only when `FGPC = IDLE`, and a byte of `STR`
whenever that byte is not in the string of the running `TXPUTS` (60_exceptions.md R252; 92_eei_decisions.md D27;
log 9, log 23). -/
def State.enabled (s : State) : Move → Bool
  | .command _ => s.portReady
  | .foreground => s.fgpc != .idle
  | .drain => s.drainEnabled
  | .txSent => s.txSentEnabled
  | .adcDone _ => s.adcDoneEnabled
  | .report => s.fgpc == .idle
  | .writeGie _ => s.fgpc == .idle
  | .storeStr a _ => !s.readsString a

/-- The instruction a move executes; none for the host's writes of `GIE` and `STR` and for a foreground with no
command in progress. -/
def State.instrOf (s : State) : Move → Option Instr
  | .command w => some (decode w)
  | .foreground => s.inProgress
  | .drain => some .drain
  | .txSent => some .txSent
  | .adcDone v => some (.adcDone v)
  | .report => some .report
  | .writeGie _ => none
  | .storeStr _ _ => none

/-- The host's own writes (60_exceptions.md R252; log 9). -/
def State.hostWrite (s : State) : Move → State
  | .writeGie b => { s with gie := b }
  | .storeStr a v => { s with str := s.str.write a.toNat v }
  | _ => s

/-- One move. A move its agent cannot take does not happen: nothing changes (log 5). -/
def perform (m : Move) (s : State) : Result :=
  if s.enabled m then
    match s.instrOf m with
    | some i => exec i s
    | none => .next (s.hostWrite m)
  else .next s

/-- The next move: the first of the script, or a free move where the script is empty (log 4). -/
def State.nextMove (s : State) : Move :=
  match s.script with
  | m :: _ => m
  | [] => Config.freeMove s.draws

/-- The state once the next move is picked: the script is shorter, or one more free move is drawn. -/
def State.afterPick (s : State) : State :=
  match s.script with
  | _ :: ms => { s with script := ms }
  | [] => { s with draws := s.draws + 1 }

/-- The moves `ms` one after another, stopping at the first fault or refusal. -/
def runMoves : List Move → State → Result
  | [], s => .next s
  | m :: ms, s =>
    match perform m s with
    | .next t => runMoves ms t
    | .fault f => .fault f
    | .refused r => .refused r

/-- `n` foreground micro-steps with no other agent stepping between. -/
def runForeground (n : Nat) (s : State) : Result := runMoves (List.replicate n .foreground) s

/-- The state with the word `w` as the host's next command at a ready port (log 20). -/
def State.withCommand (s : State) (w : Cmd) : State :=
  { s with fgpc := .idle, hostpc := .idle, script := .command w :: s.script }

end Sys2Proof.Machine
end

