-- ==== Sys2Proof/Machine/Step.lean ====
section
/-! DEFINITION. One step of the machine: pick the next move, perform it (20_memory.md R72). -/

namespace Sys2Proof.Machine

/-- One atomic step of one agent. -/
def step (s : State) : Host.Outcome State Fault Refusal :=
  perform s.nextMove s.afterPick

/-- `s` with the instruction whose bits are `w` presented at the command port as the next move (log 20). -/
def State.withFetchWord (s : State) (_nbits w : Nat) : State :=
  s.withCommand (portWord w)

end Sys2Proof.Machine
end

