-- ==== Sys2Proof/Safety.lean ====
section
/-! DEFINITION. The terms claims use: the pending bytes of the ring buffer, the pipeline states, quiescence, and the
invariant `Inv` of the reachable states. -/

namespace Sys2Proof.Safety

open Sys2Proof.Machine

/-- `COUNT = (HEAD - TAIL) mod RB_N`, computed on integers (10_state.md R27). -/
def count (s : State) : Nat := (((s.head.toNat : Int) - s.tail.toNat) % s.rbN).toNat

/-- The slot `k + 1` places after `TAIL`, modulo `RB_N`. -/
def pendingSlot (s : State) (k : Nat) : Nat := (s.tail.toNat + k + 1) % s.rbN

/-- The pending bytes, oldest first (10_state.md R28). -/
def pending (s : State) : List Byte := (List.range (count s)).map fun k => s.buf.getD (pendingSlot s k) 0

/-- The four pipeline states (41_tx_drain.md R165). -/
inductive Pipeline where
  | idle
  | armed
  | armedEmpty
  | committed
  deriving DecidableEq, Repr

/-- The pipeline state of a state: the pair of `UDRIE` and emptiness (41_tx_drain.md R165). -/
def pipeline (s : State) : Pipeline :=
  match s.udrie, s.isEmpty with
  | false, true => .idle
  | true, false => .armed
  | true, true => .armedEmpty
  | false, false => .committed

/-- Everything enqueued has been sent (41_tx_drain.md R168). -/
def quiescent (s : State) : Bool :=
  s.fgpc == .idle && pipeline s == .idle && s.udre

/-- The bytes enqueued since the indices were last set to 0, after the foreground has gone from `s` to `t` in one move:
grown at `P3`, empty again at `I4` (`ENQ` of 41_tx_drain.md R161). -/
def enqueuedAfter (m : Move) (s : State) (enq : List Byte) : List Byte :=
  match m, s.fgpc with
  | .foreground, .enq .p3 => enq ++ [s.byte]
  | .foreground, .init .i4 => []
  | _, _ => enq

/-- The bytes written to `TXDATA` since the indices were last set to 0 (`D` of 41_tx_drain.md R161). -/
def emittedAfter (m : Move) (s t : State) (out : List Byte) : List Byte :=
  match m, s.fgpc with
  | .foreground, .init .i4 => []
  | _, _ => out ++ t.txlog.drop s.txlog.length

/-- The enqueue micro-step at `FGPC` runs for the instruction `i`: for `TXPUT` when `INSTR = 0`, for `TXPUTS` when
`INSTR = 1`, with the operand in `ARG` (10_state.md R41; 30_encoding.md R106). -/
def enqueuesFor (s : State) (i : Instr) : Prop :=
  (s.instr = false ∧ i = .txput s.argByte) ∨ (s.instr = true ∧ i = .txputs s.arg)

/-- The ring buffer and its indices are the same. -/
def sameRing (s t : State) : Prop := t.buf = s.buf ∧ t.head = s.head ∧ t.tail = s.tail

/-- The UART registers, the interrupt mask and the histories are the same. -/
def sameUart (s t : State) : Prop :=
  t.uctrl = s.uctrl ∧ t.uframe = s.uframe ∧ t.bauddiv = s.bauddiv ∧ t.ustat = s.ustat ∧ t.txdata = s.txdata
    ∧ t.gie = s.gie ∧ t.txlog = s.txlog ∧ t.wire = s.wire

/-- The foreground working registers and the sequencer are the same. -/
def sameForeground (s t : State) : Prop :=
  t.next = s.next ∧ t.byte = s.byte ∧ t.ptr = s.ptr ∧ t.result = s.result ∧ t.arg = s.arg ∧ t.fgpc = s.fgpc
    ∧ t.instr = s.instr

/-- The converter registers are the same. -/
def sameConverter (s t : State) : Prop := t.amux = s.amux ∧ t.actrl = s.actrl ∧ t.adata = s.adata

/-- Every byte of `STR` reads the same. -/
def sameStr (s t : State) : Prop := ∀ a, t.str.read a = s.str.read a

/-- The host's place in `REPORT` and the model's own schedule fields are the same. -/
def sameSchedule (s t : State) : Prop := t.hostpc = s.hostpc ∧ t.script = s.script ∧ t.draws = s.draws

/-- The foreground stands where the indices of an enqueue are computed and not yet committed. -/
def holdsNext : Fgpc → Bool
  | .enq .p1 => true
  | .enq .p2 => true
  | .enq .p3 => true
  | _ => false

/-- The foreground has found the slot free and has not yet committed it. -/
def holdsSlot : Fgpc → Bool
  | .enq .p2 => true
  | .enq .p3 => true
  | _ => false

/-- The foreground stands inside the part of `TXINIT` that runs with `GIE = 0` (40_tx_producer.md R121). -/
def masksInterrupts : Fgpc → Bool
  | .init .i0 => false
  | .init _ => true
  | _ => false

/-- The foreground stands after `I2` of `TXINIT`. -/
def afterArmOff : Fgpc → Bool
  | .init .i3 => true
  | .init .i4 => true
  | .init .i5 => true
  | _ => false

/-- A `TXPUT` or `TXPUTS` is in progress. -/
def isPutting : Fgpc → Bool
  | .enq _ => true
  | .str _ => true
  | _ => false

/-- The places where `COMMITTED` may stand (41_tx_drain.md R165). -/
def mayBeCommitted : Fgpc → Bool
  | .enq .p4 => true
  | .init .i3 => true
  | .init .i4 => true
  | _ => false

/-- The argument latch holds a zero-extended operand of the command in progress (30_encoding.md R91, R92). -/
def argFits (s : State) : Prop :=
  match s.fgpc with
  | .idle => True
  | .init _ => s.arg.toNat < 2 ^ 12
  | .enq _ => s.instr = true ∨ s.arg.toNat < 2 ^ 8
  | .str _ => s.instr = true
  | .cfg _ => s.arg.toNat < 2 ^ 8 ∧ (psCode s.argByte).isSome = true
  | .smp _ => s.arg.toNat < 2 ^ 3

/-- The string at `p` has no zero byte before address `n`, and one between `n` and 0xFFFF: what is left of it begins at
`n` and ends before address wrap (40_tx_producer.md R136; 93_implementation_defined.md U6). -/
def stringFrom (m : Memory) (p n : Nat) : Prop :=
  p ≤ n ∧ m.zeroWithin (n - p) p = false ∧ m.zeroWithin (2 ^ 16 - n) n = true

/-- What is left of the string of the `TXPUTS` in progress: from `ARG` before `T0`, from `PTR` at `T1`, and after the
byte at `PTR` from then on (40_tx_producer.md R136). -/
def stringEnds (s : State) : Prop :=
  match s.fgpc with
  | .str .t0 => stringFrom s.str s.arg.toNat s.arg.toNat
  | .str .t1 => stringFrom s.str s.arg.toNat s.ptr.toNat
  | .str .t2 => stringFrom s.str s.arg.toNat (s.ptr.toNat + 1)
  | .enq _ => s.instr = true → stringFrom s.str s.arg.toNat (s.ptr.toNat + 1)
  | _ => True

/-- Address `a` lies in the string, terminator included, of the `TXPUTS` in progress (20_memory.md R63, R79). -/
def inRunningString (s : State) (a : Nat) : Prop :=
  ∃ p, s.inProgress = some (.txputs p) ∧ p.toNat ≤ a ∧ ∀ b, p.toNat ≤ b → b < a → s.str.read b ≠ 0

/-- The elements that 10_state.md R49 gives a reset value have it; every element it marks unspecified is free, but for
the size of the ring buffer and the canonical form of `STR`. -/
structure ResetLike (s : State) : Prop where
  size : 2 ≤ s.rbN ∧ s.rbN ≤ 256
  head : s.head = 0
  tail : s.tail = 0
  uctrl : s.uctrl = 0x00
  ustat : s.ustat = 0x20
  gie : s.gie = false
  fgpc : s.fgpc = .idle
  instr : s.instr = false
  amux : s.amux &&& 0x38 = 0
  aden : s.aden = false
  adsc : s.adsc = false
  actrl : s.actrl &&& 0x38 = 0
  txlog : s.txlog = []
  wire : s.wire = []
  hostpc : s.hostpc = .idle
  str : s.str.wf = true

/-- Where the foreground may stand while the host is inside `REPORT` (43_host_periodic_task.md R210). -/
def hostFits (s : State) : Prop :=
  match s.hostpc with
  | .idle => True
  | .sampling => s.fgpc = .idle ∨ ∃ k, s.fgpc = .smp k
  | .sending _ _ => s.fgpc = .idle ∨ ∃ k, s.fgpc = .enq k ∧ s.instr = false

/-- The ring buffer: sizes, index ranges, and what holds between the micro-steps of an enqueue
(00_scope.md R10; 10_state.md R24; 40_tx_producer.md R127). -/
structure RingInv (s : State) : Prop where
  size : 2 ≤ s.rbN ∧ s.rbN ≤ 256
  head : s.head.toNat < s.rbN
  tail : s.tail.toNat < s.rbN
  next : holdsNext s.fgpc = true → s.next = incMod s.rbN s.head
  room : holdsSlot s.fgpc = true → s.next ≠ s.tail
  slot : s.fgpc = .enq .p3 → s.readSlot s.next = some s.byte

/-- The transmit side: interrupts off inside `TXINIT`, transmitter on and source off after its `I2`, `TXDATA` never overwritten in flight (41_tx_drain.md R160), where
`COMMITTED` may stand (R165), and no enqueue before `TXINIT` (10_state.md R50). -/
structure TxInv (s : State) : Prop where
  masked : masksInterrupts s.fgpc = true → s.gie = false
  initialising : afterArmOff s.fgpc = true → s.txen = true ∧ s.udrie = false
  log : s.txlog = if s.udre then s.wire else s.wire ++ [s.txdata]
  committed : pipeline s = .committed → mayBeCommitted s.fgpc = true
  ready : isPutting s.fgpc = true → s.txen = true

/-- The converter side: a conversion runs only while `ADCSAMPLE` polls (42_adc_sampler.md R193 e), and no sample before
`ADCCFG`. -/
structure AdcInv (s : State) : Prop where
  converting : s.adsc = true → s.fgpc = .smp .s2
  ready : ∀ k, s.fgpc = .smp k → s.aden = true

/-- The reserved bits and `RXEN` read 0 (10_state.md R32, R35, R42, R43; 93_implementation_defined.md U12). -/
structure ReservedInv (s : State) : Prop where
  uctrl : s.uctrl &&& 0xD7 = 0
  ustat : s.ustat &&& 0xDF = 0
  amux : s.amux &&& 0x38 = 0
  actrl : s.actrl &&& 0x38 = 0

/-- The command in progress, its string, the host inside `REPORT`, and the canonical form of `STR`. -/
structure CommandInv (s : State) : Prop where
  arg : argFits s
  string : stringEnds s
  host : hostFits s
  str : s.str.wf = true

/-- The invariant of the reachable states. -/
structure Inv (s : State) : Prop where
  ring : RingInv s
  tx : TxInv s
  adc : AdcInv s
  reserved : ReservedInv s
  command : CommandInv s

end Sys2Proof.Safety
end

