-- ==== Sys2Proof/Certificates/Slice0/Obligations.lean ====
section
/-! DEFINITION. The statements for the provers. Each says which rule of spec/ it formalises. -/

open Sys2Proof Sys2Proof.Machine Sys2Proof.Safety

/-! ### Encoding -/

/-- Decoding an encoded well-formed instruction gives it back (30_encoding.md R109). That the instructions with an encoding
include one for each reserved word is the model's constructor (log 13). -/
def Obligations.DecodeInvertsEncode : Prop :=
  ∀ (i : Instr) (w : Cmd), i.wellFormed = true → encode i = some w → decode w = i

/-- Encoding what a word decodes to gives the word back (30_encoding.md R109; 95_test_vectors.md V1). The spec defines
`encode` on the five command forms only: that a reserved word is an instruction of its own, which encodes back to the
word, is the model's constructor (log 13). -/
def Obligations.EncodeInvertsDecode : Prop :=
  ∀ w : Cmd, encode (decode w) = some w

/-- A word that matches a row of the opcode map decodes to that row's command with the operand in its low bits
(30_encoding.md R93, R95). -/
def Obligations.DecodeFollowsOpcodeMap : Prop :=
  ∀ w : Cmd,
    (w &&& 0xFF000 = 0x10000 → decode w = .txinit (w.extractLsb' 0 12)) ∧
    (w &&& 0xFFF00 = 0x20000 → decode w = .txput (w.extractLsb' 0 8)) ∧
    (w &&& 0xF0000 = 0x30000 → decode w = .txputs (w.extractLsb' 0 16)) ∧
    (w &&& 0xFFF00 = 0x40000 → decode w = .adccfg (w.extractLsb' 0 8)) ∧
    (w &&& 0xFFFF8 = 0x50000 → decode w = .adcsample (w.extractLsb' 0 3))

/-- A few words of 95_test_vectors.md V1. The instruction that the reserved one decodes to is the model's constructor
(log 13). -/
def Obligations.SampleWordsDecode : Prop :=
  decode 0x10067 = .txinit 103 ∧ decode 0x20041 = .txput 0x41 ∧ decode 0x30100 = .txputs 0x0100 ∧
  decode 0x40080 = .adccfg 128 ∧ decode 0x50007 = .adcsample 7 ∧ decode 0x50008 = .reserved 0x50008

/-- A word with a reserved opcode or a nonzero must-be-zero bit is refused: it has no next state
(30_encoding.md R97, R98, R99). That it decodes to an instruction of its own, which refuses, is the model's constructor
(log 13). -/
def Obligations.ReservedWordsAreRefused : Prop :=
  ∀ w : Cmd,
    (w.extractLsb' 16 4 = 0 ∨ 6 ≤ (w.extractLsb' 16 4).toNat
      ∨ (w.extractLsb' 16 4 = 1 ∧ w.extractLsb' 12 4 ≠ 0)
      ∨ ((w.extractLsb' 16 4 = 2 ∨ w.extractLsb' 16 4 = 4) ∧ w.extractLsb' 8 8 ≠ 0)
      ∨ (w.extractLsb' 16 4 = 5 ∧ w.extractLsb' 3 13 ≠ 0)) →
    decode w = .reserved w ∧
    ∀ s : State, exec (.reserved w) s = .refused .reservedWord ∧
      (s.portReady = true → perform (.command w) s = .refused .reservedWord)

/-! ### The step -/

/-- A word presented at the port runs as the instruction it decodes to, as the very next step (30_encoding.md R91, R109):
`withFetchWord` is the model's own placing of a command (log 20). A word the decoder rejects, which the port does not accept
and a model refuses (30_encoding.md R99; 93_implementation_defined.md U5), is the refusal `reservedWord`: that refusal, and
the constructor it is the meaning of, are the model's (log 13). -/
def Obligations.StepRunsPresentedWord : Prop :=
  ∀ (s : State) (nbits w : Nat),
    (∀ i, decodeTableWord nbits w = some i →
      step (s.withFetchWord nbits w) = exec i { s with fgpc := .idle, hostpc := .idle }) ∧
    (decodeTableWord nbits w = none → step (s.withFetchWord nbits w) = .refused .reservedWord)

/-- A step takes the first move of the script, or the free move where the script is empty: it runs `exec` of the move's
instruction (the decoded word, the command in progress, the event, the macro), or the host's write, or nothing where the
agent cannot take the move. The script and the free move are the model's choice (log 4), and so is it that a move its
agent cannot take leaves everything but the schedule as it is (log 5). -/
def Obligations.StepPerformsTheNextMove : Prop :=
  ∀ (s u : State) (m : Move),
    ((∃ ms, s.script = m :: ms ∧ u = { s with script := ms }) ∨
      (s.script = [] ∧ m = Config.freeMove s.draws ∧ u = { s with draws := s.draws + 1 })) →
    (u.enabled m = false → step s = .next u) ∧
    (u.enabled m = true → ∀ i, u.instrOf m = some i → step s = exec i u) ∧
    (u.enabled m = true → u.instrOf m = none → step s = .next (u.hostWrite m))

/-! ### Reset and the invariant -/

/-- The reset values the spec gives (10_state.md R49). -/
def Obligations.ResetValues : Prop :=
  State.reset.head = 0 ∧ State.reset.tail = 0 ∧ State.reset.uctrl = 0x00 ∧ State.reset.udre = true ∧
  State.reset.gie = false ∧ State.reset.fgpc = .idle ∧ State.reset.instr = false ∧
  State.reset.amux.extractLsb' 3 3 = 0 ∧ State.reset.aden = false ∧ State.reset.adsc = false ∧
  State.reset.txlog = [] ∧ State.reset.wire = [] ∧ pipeline State.reset = .idle

/-- In the reset state, whatever the unspecified elements hold, no agent but the host can act
(70_reset_and_hazards.md R261). That a step which cannot be taken is refused by name (log 6), and that a move of such an
agent leaves the state as it is (log 5), are the model's choices. -/
def Obligations.OnlyHostActsAtReset : Prop :=
  ∀ s : State, ResetLike s →
    exec .drain s = .refused .drainNotEnabled ∧ exec .txSent s = .refused .txSentNotEnabled ∧
    (∀ v, exec (.adcDone v) s = .refused .adcDoneNotEnabled) ∧ s.inProgress = none ∧
    perform .drain s = .next s ∧ perform .txSent s = .next s ∧ perform .foreground s = .next s ∧
    ∀ v, perform (.adcDone v) s = .next s

/-- The reset state has 64 slots and the reset values the spec gives, and every state that has those values meets the
invariant, whatever the elements without a reset value hold (log 1, log 7). That `STR` is canonical and the host outside
`REPORT` is said of the model's own data (log 8, log 18). -/
def Obligations.ResetMeetsInvariant : Prop :=
  State.reset.rbN = 64 ∧ ResetLike State.reset ∧ ∀ s : State, ResetLike s → Inv s

/-- Every step keeps the invariant. Its clauses from the spec: index ranges and the ring between the micro-steps of an
enqueue (10_state.md R24; 40_tx_producer.md R127), interrupts off inside `TXINIT` (R121), `TXDATA` never overwritten in flight
(41_tx_drain.md R160), where `COMMITTED` may stand (R165), a conversion only while `ADCSAMPLE` polls (42_adc_sampler.md R193),
reserved bits 0 (10_state.md R32, R35, R42, R43), the latched operand (30_encoding.md R91, R92).
Its clauses that rest on the model's choices too: `TxInv.ready` and `AdcInv.ready`, no enqueue before `TXINIT` and no sample
before `ADCCFG`, on the refusal at acceptance (10_state.md R50; 40_tx_producer.md R130; 42_adc_sampler.md R192; log 11);
`CommandInv.string`, what is left of the running `TXPUTS`'s string ends, on the refusal of an unterminated string
(93_implementation_defined.md U6; log 12) and on the host having no move that changes that string (20_memory.md R79; U7; log 23,
unsafe: it errs towards proving); that such a write, and any move not enabled, changes nothing, log 5; `CommandInv.arg` for
`ADCCFG`, a factor of the set, on its refusal at acceptance (42_adc_sampler.md R184; log 10); `CommandInv.host` on the
cut of `REPORT` (log 18); `CommandInv.str`, `STR` canonical, on how `STR` is held (log 8); the size of the ring buffer on log 1. -/
def Obligations.EveryStepKeepsInvariant : Prop :=
  ∀ s t : State, Inv s → step s = .next t → Inv t

/-- No step from a state of the invariant faults (20_memory.md R61; 60_exceptions.md R241). The fault is the model's
(log 15). -/
def Obligations.StepNeverFaults : Prop :=
  ∀ (s : State) (f : Fault), Inv s → step s ≠ .fault f

/-- A step from a state of the invariant is refused only on an input outside the contract
(60_exceptions.md R232; 93_implementation_defined.md U1, U3 to U6). That each is refused at acceptance is the model's
(log 10, log 11, log 12), and so is where the host stands inside `REPORT` (log 18). -/
def Obligations.RefusalsAreContractViolations : Prop :=
  ∀ (s : State) (r : Refusal), Inv s → step s = .refused r →
    (∃ w, s.nextMove = .command w ∧ s.portReady = true ∧
      ((decode w = .reserved w ∧ r = .reservedWord) ∨
       (∃ df, decode w = .adccfg df ∧ psCode df = none ∧ r = .illegalDivisor) ∨
       (((∃ b, decode w = .txput b) ∨ ∃ p, decode w = .txputs p) ∧ s.txReady = false ∧ r = .txNotReady) ∨
       (∃ p, decode w = .txputs p ∧ s.txReady = true ∧ s.str.terminated p = false ∧ r = .unterminatedString) ∨
       (∃ ch, decode w = .adcsample ch ∧ s.adcReady = false ∧ r = .adcNotReady))) ∨
    (s.nextMove = .report ∧ s.fgpc = .idle ∧
      ((s.hostpc = .idle ∧ s.adcReady = false ∧ r = .adcNotReady) ∨ (s.txReady = false ∧ r = .txNotReady)))

/-- `TX_READY` is gained only when a `TXINIT` retires and `ADC_READY` only when an `ADCCFG` does; once gained, each is
absent only while such a command runs again (10_state.md R50). -/
def Obligations.ReadinessComesFromInitialisation : Prop :=
  ∀ s t : State, step s = .next t →
    (s.txReady = false → t.txReady = true → s.nextMove = .foreground ∧ s.fgpc = .init .i5) ∧
    (s.txReady = true → t.txReady = false → t.fgpc = .init .i0) ∧
    (s.adcReady = false → t.adcReady = true → s.nextMove = .foreground ∧ s.fgpc = .cfg .c1) ∧
    (s.adcReady = true → t.adcReady = false → t.fgpc = .cfg .c0)

/-! ### The command port -/

/-- Acceptance latches the operand and goes to the first label (30_encoding.md R91, with the preconditions of
40_tx_producer.md R130, 42_adc_sampler.md R184, R192 and 93_implementation_defined.md U6). That these preconditions are
checked at acceptance is the model's (log 10, log 11, log 12). -/
def Obligations.AcceptanceLatchesOperand : Prop :=
  ∀ s : State, s.fgpc = .idle →
    (∀ bd, exec (.txinit bd) s = .next { s with arg := bd.setWidth 16, fgpc := .init .i0 }) ∧
    (∀ b, s.txReady = true →
      exec (.txput b) s = .next { s with arg := b.setWidth 16, byte := b, instr := false, fgpc := .enq .p0 }) ∧
    (∀ p, s.txReady = true → s.str.terminated p = true →
      exec (.txputs p) s = .next { s with arg := p, instr := true, fgpc := .str .t0 }) ∧
    (∀ df, df ∈ [4, 8, 16, 32, 64, 128] →
      exec (.adccfg df) s = .next { s with arg := df.setWidth 16, fgpc := .cfg .c0 }) ∧
    (∀ ch, s.adcReady = true →
      exec (.adcsample ch) s = .next { s with arg := ch.setWidth 16, fgpc := .smp .s0 })

/-- While a command is in progress the port takes no other: a command or `REPORT` that is not in progress is refused,
and the host's move does not happen (30_encoding.md R91). The name of the refusal and the move without effect are the
model's (log 5, log 6). -/
def Obligations.PortClosedWhileCommandRuns : Prop :=
  ∀ (s : State) (i : Instr), s.fgpc ≠ .idle → s.inProgress ≠ some i →
    ((∃ bd, i = .txinit bd) ∨ (∃ b, i = .txput b) ∨ (∃ p, i = .txputs p) ∨ (∃ df, i = .adccfg df)
      ∨ (∃ ch, i = .adcsample ch) ∨ i = .report) →
    exec i s = .refused .portNotReady ∧ ∀ w, perform (.command w) s = .next s

/-! ### TXINIT -/

/-- The micro-steps of `TXINIT`, and `DRAIN` not enabled from the end of `I0` to the end of `I5`
(40_tx_producer.md R121). That a `DRAIN` which is not enabled is refused by name is the model's choice (log 6). -/
def Obligations.TxinitMicroSteps : Prop :=
  (∀ s : State,
    (s.fgpc = .init .i0 → exec (.txinit s.argDivisor) s = .next { s with gie := false, fgpc := .init .i1 }) ∧
    (s.fgpc = .init .i1 →
      exec (.txinit s.argDivisor) s = .next { s with bauddiv := s.arg.extractLsb' 0 12, fgpc := .init .i2 }) ∧
    (s.fgpc = .init .i2 →
      exec (.txinit s.argDivisor) s = .next { s with uctrl := (s.uctrl ||| 0x08) &&& 0xDF, fgpc := .init .i3 }) ∧
    (s.fgpc = .init .i3 → exec (.txinit s.argDivisor) s = .next { s with uframe := 0x06, fgpc := .init .i4 }) ∧
    (s.fgpc = .init .i4 →
      exec (.txinit s.argDivisor) s = .next { s with head := 0, tail := 0, fgpc := .init .i5 }) ∧
    (s.fgpc = .init .i5 → exec (.txinit s.argDivisor) s = .next { s with gie := true, fgpc := .idle })) ∧
  ∀ s : State, Inv s → masksInterrupts s.fgpc = true → exec .drain s = .refused .drainNotEnabled

/-- `TXINIT bd`, run with no other agent stepping between its micro-steps, from any state with the port ready, leaves the
postcondition of 40_tx_producer.md R122; every other element keeps its value. These states include a running pipeline:
that a `TXINIT` on one runs, where the spec lets a model run it or refuse it, is the model's choice (log 14). That a ready port
asks for the host to stand outside `REPORT` is the model's (log 18). -/
def Obligations.TxinitRunLeavesPostcondition : Prop :=
  ∀ (s : State) (bd : BitVec 12), s.portReady = true →
    ∃ t, runMoves (.command (0x10000 + bd.setWidth 20) :: List.replicate 6 .foreground) s = .next t ∧
      t = { s with
        arg := bd.setWidth 16, gie := true, bauddiv := bd, uctrl := (s.uctrl ||| 0x08) &&& 0xDF, uframe := 0x06
        head := 0, tail := 0, fgpc := .idle } ∧
      pipeline t = .idle ∧ t.txReady = true ∧ pending t = []

/-! ### TXPUT and TXPUTS -/

/-- `inc_mod` (00_scope.md R14). -/
def Obligations.IndexIncrementWraps : Prop :=
  ∀ (n : Nat) (i : Byte), 2 ≤ n → n ≤ 256 → i.toNat < n →
    (incMod n i).toNat = (if i.toNat = n - 1 then 0 else i.toNat + 1) ∧ (incMod n i).toNat < n

/-- The enqueue micro-steps `P0` to `P4` of `TXPUT` and of `TXPUTS`: the next slot, the fullness test and its spin, the
slot write, the commit, the unconditional arm (40_tx_producer.md R125, R126, R128, R129, and the action of R127). -/
def Obligations.EnqueueMicroSteps : Prop :=
  ∀ (s : State) (i : Instr), enqueuesFor s i →
    (s.fgpc = .enq .p0 →
      exec i s = .next { s with next := BitVec.ofNat 8 ((s.head.toNat + 1) % s.buf.length), fgpc := .enq .p1 }) ∧
    (s.fgpc = .enq .p1 → s.next = s.tail → exec i s = .next s) ∧
    (s.fgpc = .enq .p1 → s.next ≠ s.tail → exec i s = .next { s with fgpc := .enq .p2 }) ∧
    (s.fgpc = .enq .p2 → s.next.toNat < s.buf.length →
      exec i s = .next { s with buf := s.buf.set s.next.toNat s.byte, fgpc := .enq .p3 }) ∧
    (s.fgpc = .enq .p3 → exec i s = .next { s with head := s.next, fgpc := .enq .p4 }) ∧
    (s.fgpc = .enq .p4 → exec i s = .next { s with
      uctrl := s.uctrl ||| 0x20
      fgpc := if s.instr then .str .t2 else .idle })

/-- The slot write of an enqueue overwrites no pending byte (40_tx_producer.md R127). -/
def Obligations.SlotWriteKeepsPending : Prop :=
  ∀ (s : State) (i : Instr), RingInv s → enqueuesFor s i → s.fgpc = .enq .p2 →
    ∃ t, exec i s = .next t ∧ pending t = pending s

/-- After the commit the byte is pending: `COUNT` has grown by one and `BUF[HEAD]` is the new byte, after every byte
enqueued earlier (40_tx_producer.md R128, R132). -/
def Obligations.CommitAppendsByte : Prop :=
  ∀ (s : State) (i : Instr), RingInv s → enqueuesFor s i → s.fgpc = .enq .p3 →
    ∃ t, exec i s = .next t ∧ pending t = pending s ++ [s.byte] ∧ count t = count s + 1 ∧
      t.readSlot t.head = some s.byte

/-- `TXPUT b` run with no other agent stepping between: on a buffer with room it appends `b`, sets `UDRIE` and retires; on
a full buffer it stands at `P1` after any number of micro-steps, with nothing enqueued
(40_tx_producer.md R124, R131 c). That a ready port
asks for the host to stand outside `REPORT` is the model's (log 18). -/
def Obligations.TxputRunAppendsOrBlocks : Prop :=
  ∀ (s : State) (b : Byte), RingInv s → s.portReady = true → s.txReady = true →
    (s.isFull = false →
      ∃ t, runMoves (.command (0x20000 + b.setWidth 20) :: List.replicate 5 .foreground) s = .next t ∧
        t = { s with
          arg := b.setWidth 16, byte := b, instr := false, next := incMod s.rbN s.head
          buf := s.buf.set (incMod s.rbN s.head).toNat b, head := incMod s.rbN s.head, uctrl := s.uctrl ||| 0x20 } ∧
        pending t = pending s ++ [b]) ∧
    (s.isFull = true → ∀ n,
      runMoves (.command (0x20000 + b.setWidth 20) :: List.replicate (n + 1) .foreground) s = .next { s with
        arg := b.setWidth 16, byte := b, instr := false, next := incMod s.rbN s.head, fgpc := .enq .p1 })

/-- `TXPUT` and `TXPUTS` are refused when `TX_READY` does not hold (40_tx_producer.md R130, which calls them outside what
the sources define and lets a model refuse them). The refusal at acceptance is the model's (log 11). -/
def Obligations.EnqueueRefusedBeforeInit : Prop :=
  ∀ s : State, s.fgpc = .idle → s.txReady = false →
    (∀ b, exec (.txput b) s = .refused .txNotReady) ∧ ∀ p, exec (.txputs p) s = .refused .txNotReady

/-- The micro-steps `T0`, `T1`, `T2` of `TXPUTS`, and `P4` returning to `T2` (40_tx_producer.md R136). -/
def Obligations.TxputsMicroSteps : Prop :=
  ∀ s : State,
    (s.fgpc = .str .t0 → exec (.txputs s.arg) s = .next { s with ptr := s.arg, fgpc := .str .t1 }) ∧
    (s.fgpc = .str .t1 → s.str.read s.ptr.toNat = 0 →
      exec (.txputs s.arg) s = .next { s with byte := 0, fgpc := .idle }) ∧
    (s.fgpc = .str .t1 → s.str.read s.ptr.toNat ≠ 0 →
      exec (.txputs s.arg) s = .next { s with byte := s.str.read s.ptr.toNat, fgpc := .enq .p0 }) ∧
    (s.fgpc = .enq .p4 → s.instr = true →
      exec (.txputs s.arg) s = .next { s with uctrl := s.uctrl ||| 0x20, fgpc := .str .t2 }) ∧
    (s.fgpc = .str .t2 →
      exec (.txputs s.arg) s =
        .next { s with ptr := BitVec.ofNat 16 ((s.ptr.toNat + 1) % 2 ^ 16), fgpc := .str .t1 })

/-- A `TXPUTS` whose string has no zero byte before address wrap is refused (93_implementation_defined.md U6). That it is
refused at acceptance is the model's (log 12). -/
def Obligations.UnterminatedStringRefused : Prop :=
  ∀ (s : State) (p : Half), s.fgpc = .idle → s.txReady = true →
    (∀ a, p.toNat ≤ a → a < 2 ^ 16 → s.str.read a ≠ 0) → exec (.txputs p) s = .refused .unterminatedString

/-- `TXPUTS p` run with no other agent stepping between, on a zero-terminated string that fits into the free slots,
appends exactly the string's bytes in order, not the terminator, and retires with `PTR` at the terminator
(40_tx_producer.md R135, R137 b). That a ready port
asks for the host to stand outside `REPORT` is the model's (log 18). -/
def Obligations.TxputsRunAppendsString : Prop :=
  ∀ (s : State) (p : Half) (bs : List Byte), Inv s → s.portReady = true → s.txReady = true →
    (∀ k (h : k < bs.length), s.str.read (p.toNat + k) = bs[k] ∧ bs[k] ≠ 0) →
    s.str.read (p.toNat + bs.length) = 0 → p.toNat + bs.length < 2 ^ 16 → count s + bs.length < s.rbN →
    ∃ t, runMoves (.command (0x30000 + p.setWidth 20) :: List.replicate (2 + 7 * bs.length) .foreground) s = .next t ∧
      pending t = pending s ++ bs ∧ t.fgpc = .idle ∧ t.ptr = p + BitVec.ofNat 16 bs.length ∧ t.str = s.str

/-- An embedded enqueue of `TXPUTS` does at each micro-step what `TXPUT` does, but for where `P4` continues
(40_tx_producer.md R138). -/
def Obligations.EmbeddedEnqueueEqualsTxput : Prop :=
  ∀ (s t : State) (k : EnqLabel), s.fgpc = .enq k → s.instr = true →
    exec (.txputs s.arg) s = .next t →
    exec (.txput s.argByte) { s with instr := false } =
      .next { t with instr := false, fgpc := if k = .p4 then .idle else t.fgpc }

/-! ### DRAIN and TX_SENT -/

/-- `DRAIN` steps exactly when `GIE`, `UDRIE` and `UDRE` are 1 (41_tx_drain.md R150). Where it steps, the indices in range
suffice for a next state. That a `DRAIN` which is not enabled is refused by name (log 6), and that its move changes
nothing (log 5), are the model's choices. -/
def Obligations.DrainTrigger : Prop :=
  ∀ s : State,
    (¬ (s.gie = true ∧ s.udrie = true ∧ s.udre = true) →
      exec .drain s = .refused .drainNotEnabled ∧ perform .drain s = .next s) ∧
    (s.gie = true → s.udrie = true → s.udre = true → RingInv s → ∃ t, exec .drain s = .next t ∧ perform .drain s = .next t)

/-- The action of `DRAIN` in its two branches (41_tx_drain.md R152). -/
def Obligations.DrainAction : Prop :=
  ∀ s : State, s.drainEnabled = true →
    (s.head = s.tail → exec .drain s = .next { s with uctrl := s.uctrl &&& 0xDF }) ∧
    (s.head ≠ s.tail → ∀ b, s.buf[(incMod s.rbN s.tail).toNat]? = some b →
      exec .drain s = .next { s with
        tail := incMod s.rbN s.tail, txdata := b, ustat := s.ustat &&& 0xDF, txlog := s.txlog ++ [b] })

/-- The model's one fault: an enqueue that would write a slot beyond the buffer, and a `DRAIN` that would read one. Such
a slot does not exist (20_memory.md R61); that the access faults is the model's choice (log 15). No state of the
invariant makes it: at `P2` the slot `NEXT` exists, and so does the slot that a `DRAIN` would read. -/
def Obligations.MissingSlotFaults : Prop :=
  (∀ (s : State) (i : Instr), enqueuesFor s i → s.fgpc = .enq .p2 → s.buf.length ≤ s.next.toNat →
    exec i s = .fault .slotOutOfRange) ∧
  (∀ s : State, s.drainEnabled = true → s.head ≠ s.tail → s.buf[(incMod s.rbN s.tail).toNat]? = none →
    exec .drain s = .fault .slotOutOfRange) ∧
  ∀ s : State, Inv s →
    (s.fgpc = .enq .p2 → s.next.toNat < s.buf.length) ∧ s.buf[(incMod s.rbN s.tail).toNat]? ≠ none

/-- The non-empty branch emits the oldest pending byte and `COUNT` drops by one (41_tx_drain.md R154). -/
def Obligations.DrainEmitsOldestByte : Prop :=
  ∀ s : State, RingInv s → s.drainEnabled = true → s.head ≠ s.tail →
    ∃ t b, exec .drain s = .next t ∧ pending s = b :: pending t ∧ t.txlog = s.txlog ++ [b] ∧ t.txdata = b ∧
      count s = count t + 1 ∧ t.buf = s.buf ∧ t.uctrl = s.uctrl

/-- Either branch removes the handler's cause: the trigger is false when it ends (60_exceptions.md R235). -/
def Obligations.DrainRemovesItsCause : Prop :=
  ∀ s t : State, exec .drain s = .next t → t.drainEnabled = false

/-- From `FGPC = IDLE` with the trigger true and `k` bytes pending, `k` rounds of `DRAIN` and `TX_SENT` and one more
`DRAIN` emit and send all of them in order and disarm, after which no `DRAIN` is enabled (41_tx_drain.md R157, R168). -/
def Obligations.DrainsOncePerByteThenDisarms : Prop :=
  ∀ s : State, Inv s → s.fgpc = .idle → s.drainEnabled = true →
    ∃ t, runMoves ((List.replicate (count s) [Move.drain, Move.txSent]).flatten ++ [.drain]) s = .next t ∧
      t.txlog = s.txlog ++ pending s ∧ t.wire = s.wire ++ pending s ∧ t.head = s.head ∧ t.tail = s.head ∧
      quiescent t = true ∧ t.drainEnabled = false

/-- `TX_SENT` (41_tx_drain.md R158). That a `TX_SENT` which is not enabled is refused by name (log 6), and that its move
changes nothing (log 5), are the model's choices. -/
def Obligations.TxSentStep : Prop :=
  ∀ s : State,
    (s.udre = false → exec .txSent s = .next { s with wire := s.wire ++ [s.txdata], ustat := s.ustat ||| 0x20 }) ∧
    (s.udre = true → exec .txSent s = .refused .txSentNotEnabled ∧ perform .txSent s = .next s)

/-- `WIRE` is a prefix of `TXLOG`, shorter by the one byte in flight; a byte is written to `TXDATA` only when none is in
flight, by a `DRAIN`, and `TXDATA` keeps a byte in flight; one is sent only when one is in flight (41_tx_drain.md R160;
20_memory.md R80). -/
def Obligations.WireFollowsTxlog : Prop :=
  ∀ s t : State, Inv s → step s = .next t →
    t.wire <+: t.txlog ∧ t.txlog.length = t.wire.length + (if t.udre then 0 else 1) ∧
    (t.txlog ≠ s.txlog → s.udre = true ∧ t.udre = false ∧ t.txlog = s.txlog ++ [t.txdata] ∧ t.wire = s.wire) ∧
    (t.wire ≠ s.wire → s.udre = false ∧ t.udre = true ∧ t.wire = s.wire ++ [s.txdata] ∧ t.txlog = s.txlog) ∧
    (s.udre = false → t.txdata = s.txdata) ∧
    (t.txdata ≠ s.txdata → s.udre = true ∧ s.nextMove = .drain)

/-! ### The ring buffer and the pipeline -/

/-- What has been enqueued is what has been emitted followed by what is pending, at every step (41_tx_drain.md R161): FIFO
order, no loss, no duplication. -/
def Obligations.FifoOrderKept : Prop :=
  ∀ (s t : State) (enq out : List Byte), Inv s → enq = out ++ pending s → step s = .next t →
    enqueuedAfter s.nextMove s enq = emittedAfter s.nextMove s t out ++ pending t

/-- `COUNT`, empty and full (10_state.md R25, R26, R27; 41_tx_drain.md R162). -/
def Obligations.CountTellsEmptyAndFull : Prop :=
  ∀ s : State, RingInv s →
    (pending s).length = count s ∧ count s ≤ s.rbN - 1 ∧ (count s = 0 ↔ s.head = s.tail) ∧
    (count s = s.rbN - 1 ↔ incMod s.rbN s.head = s.tail)

/-- The list `pending` begins with the slot after `TAIL` and ends with the slot at `HEAD`: drawn from 10_state.md R28,
which says more, the whole sequence and which steps of `DRAIN` and `TXPUT` the two ends belong to. -/
def Obligations.PendingRunsFromTailToHead : Prop :=
  ∀ s : State, RingInv s → s.head ≠ s.tail →
    (pending s).head? = s.readSlot (incMod s.rbN s.tail) ∧ (pending s).getLast? = s.readSlot s.head

/-- The pipeline state changes only by the transitions of 41_tx_drain.md R166, each by the step that the rule names. -/
def Obligations.PipelineTransitions : Prop :=
  ∀ s t : State, Inv s → step s = .next t → pipeline t ≠ pipeline s →
    (s.nextMove = .foreground ∧
      ((s.fgpc = .enq .p3 ∧ pipeline s = .idle ∧ pipeline t = .committed) ∨
       (s.fgpc = .enq .p3 ∧ pipeline s = .armedEmpty ∧ pipeline t = .armed) ∨
       (s.fgpc = .enq .p4 ∧ pipeline s = .committed ∧ pipeline t = .armed) ∨
       (s.fgpc = .enq .p4 ∧ pipeline s = .idle ∧ pipeline t = .armedEmpty) ∨
       (s.fgpc = .init .i2 ∧ pipeline s = .armed ∧ pipeline t = .committed) ∨
       (s.fgpc = .init .i2 ∧ pipeline s = .armedEmpty ∧ pipeline t = .idle) ∨
       (s.fgpc = .init .i4 ∧ pipeline s = .committed ∧ pipeline t = .idle))) ∨
    (s.nextMove = .drain ∧
      ((count s = 1 ∧ pipeline s = .armed ∧ pipeline t = .armedEmpty) ∨
       (pipeline s = .armedEmpty ∧ pipeline t = .idle)))

/-- Each status flag is set and cleared only by the steps that 10_state.md R46 lists. -/
def Obligations.FlagsChangeOnlyAsListed : Prop :=
  ∀ s t : State, step s = .next t →
    (s.udre = false → t.udre = true → s.nextMove = .txSent) ∧
    (s.udre = true → t.udre = false → s.nextMove = .drain) ∧
    (s.udrie = false → t.udrie = true → s.nextMove = .foreground ∧ s.fgpc = .enq .p4) ∧
    (s.udrie = true → t.udrie = false →
      (s.nextMove = .drain ∧ s.head = s.tail) ∨ (s.nextMove = .foreground ∧ s.fgpc = .init .i2)) ∧
    (s.gie = false → t.gie = true →
      (s.nextMove = .foreground ∧ s.fgpc = .init .i5) ∨ (s.nextMove = .writeGie true ∧ s.fgpc = .idle)) ∧
    (s.gie = true → t.gie = false →
      (s.nextMove = .foreground ∧ s.fgpc = .init .i0) ∨ (s.nextMove = .writeGie false ∧ s.fgpc = .idle)) ∧
    (s.adsc = false → t.adsc = true → s.nextMove = .foreground ∧ s.fgpc = .smp .s1) ∧
    (s.adsc = true → t.adsc = false → ∃ v, s.nextMove = .adcDone v)

/-- One writer per field: `HEAD` by the foreground at `P3` and `I4`, `TAIL` by `DRAIN` and by `I4` with `GIE = 0`, a slot
by the foreground at `P2` and only the slot `NEXT` (10_state.md R29; 70_reset_and_hazards.md R274). -/
def Obligations.SoleWriters : Prop :=
  ∀ s t : State, Inv s → step s = .next t →
    (t.head ≠ s.head → s.nextMove = .foreground ∧ (s.fgpc = .enq .p3 ∨ s.fgpc = .init .i4)) ∧
    (t.tail ≠ s.tail → s.nextMove = .drain ∨ (s.nextMove = .foreground ∧ s.fgpc = .init .i4 ∧ s.gie = false)) ∧
    (∀ k, t.buf[k]? ≠ s.buf[k]? → s.nextMove = .foreground ∧ s.fgpc = .enq .p2 ∧ k = s.next.toNat) ∧
    t.rbN = s.rbN

/-- In the quiescent state everything enqueued has been sent and neither `IRQ` nor `TXHW` can step
(41_tx_drain.md R168). That a step which cannot be taken is refused by name is the model's choice (log 6). -/
def Obligations.QuiescentMeansAllSent : Prop :=
  ∀ s : State, Inv s → quiescent s = true →
    s.txlog = s.wire ∧ pending s = [] ∧ exec .drain s = .refused .drainNotEnabled ∧
    exec .txSent s = .refused .txSentNotEnabled

/-- A full buffer with `GIE = 0` blocks the foreground at `P1` for ever, under every schedule, with no byte lost,
overwritten or emitted (40_tx_producer.md R133; 70_reset_and_hazards.md R279). That a move its agent cannot take changes
nothing is the model's (log 5), and so is it that the host has no move that writes `GIE` while a command runs (log 23). -/
def Obligations.FullBufferWithInterruptsOffBlocks : Prop :=
  ∀ (s : State) (ms : List Move), s.fgpc = .enq .p1 → s.next = s.tail → s.gie = false →
    ∃ t, runMoves ms s = .next t ∧ t.fgpc = .enq .p1 ∧ t.gie = false ∧ sameRing s t ∧ t.next = s.next ∧
      t.byte = s.byte ∧ t.uctrl = s.uctrl ∧ t.txlog = s.txlog

/-! ### ADCCFG, ADCSAMPLE and ADC_DONE -/

/-- The prescaler codes, none outside `DIV_SET`, and pairwise different (42_adc_sampler.md R182). -/
def Obligations.PrescalerTable : Prop :=
  psCode 4 = some 0b010 ∧ psCode 8 = some 0b011 ∧ psCode 16 = some 0b100 ∧ psCode 32 = some 0b101 ∧
  psCode 64 = some 0b110 ∧ psCode 128 = some 0b111 ∧
  (∀ df : Byte, df ∉ [4, 8, 16, 32, 64, 128] → psCode df = none) ∧
  ∀ a b : Byte, ∀ c, psCode a = some c → psCode b = some c → a = b

/-- The micro-steps of `ADCCFG` for a factor of `DIV_SET` (42_adc_sampler.md R181). -/
def Obligations.AdccfgMicroSteps : Prop :=
  ∀ (s : State) (code : BitVec 3), psCode s.argByte = some code →
    (s.fgpc = .cfg .c0 → exec (.adccfg s.argByte) s = .next { s with
      amux := (s.amux &&& 0x3F) ||| (Config.refMode.setWidth 8 <<< 6), fgpc := .cfg .c1 }) ∧
    (s.fgpc = .cfg .c1 → exec (.adccfg s.argByte) s = .next { s with
      actrl := ((s.actrl ||| 0x80) &&& 0xF8) ||| code.setWidth 8, fgpc := .idle })

/-- `ADCCFG` with a factor outside the set is refused (42_adc_sampler.md R184; 93_implementation_defined.md U1). That it is
refused at acceptance is the model's (log 10). -/
def Obligations.IllegalDivisorRefused : Prop :=
  ∀ (s : State) (df : Byte), s.fgpc = .idle → df ∉ [4, 8, 16, 32, 64, 128] →
    exec (.adccfg df) s = .refused .illegalDivisor

/-- `ADCCFG df` run with no other agent stepping between, from any state with the port ready, leaves the postcondition of
42_adc_sampler.md R183; every other element keeps its value. That a second one runs too, replacing the fields (R185),
where the spec lets a model run it or refuse it (93_implementation_defined.md U2), is the model's choice (log 14). That a ready port
asks for the host to stand outside `REPORT` is the model's (log 18). -/
def Obligations.AdccfgRunLeavesPostcondition : Prop :=
  ∀ (s : State) (df : Byte) (code : BitVec 3), s.portReady = true → psCode df = some code →
    ∃ t, runMoves [.command (0x40000 + df.setWidth 20), .foreground, .foreground] s = .next t ∧
      t = { s with
        arg := df.setWidth 16, amux := (s.amux &&& 0x3F) ||| (Config.refMode.setWidth 8 <<< 6)
        actrl := ((s.actrl ||| 0x80) &&& 0xF8) ||| code.setWidth 8 } ∧
      t.refs = Config.refMode ∧ t.chsel = s.chsel ∧ t.adps = code ∧ t.adsc = s.adsc ∧ t.adcReady = true

/-- The micro-steps of `ADCSAMPLE` (42_adc_sampler.md R188 to R191): `S0` changes the channel bits only, `S1` triggers,
`S2` polls, `S3` widens. -/
def Obligations.AdcsampleMicroSteps : Prop :=
  ∀ s : State,
    (s.fgpc = .smp .s0 →
      ∃ t, exec (.adcsample s.argChannel) s = .next t ∧
        t = { s with amux := (s.amux &&& 0xF8) ||| s.argChannel.setWidth 8, fgpc := .smp .s1 } ∧
        t.refs = s.refs ∧ t.chsel = s.argChannel) ∧
    (s.fgpc = .smp .s1 →
      exec (.adcsample s.argChannel) s = .next { s with actrl := s.actrl ||| 0x40, fgpc := .smp .s2 }) ∧
    (s.fgpc = .smp .s2 → s.adsc = true → exec (.adcsample s.argChannel) s = .next s) ∧
    (s.fgpc = .smp .s2 → s.adsc = false → exec (.adcsample s.argChannel) s = .next { s with fgpc := .smp .s3 }) ∧
    (s.fgpc = .smp .s3 →
      exec (.adcsample s.argChannel) s =
        .next { s with result := BitVec.ofNat 16 s.adata.toNat, fgpc := .idle } ∧
      (BitVec.ofNat 16 s.adata.toNat).toNat ≤ 1023)

/-- `ADCSAMPLE` is refused when `ADC_READY` does not hold (42_adc_sampler.md R192, which calls it outside what the sources
define and lets a model refuse it). The refusal at acceptance is the model's (log 11). -/
def Obligations.SampleRefusedBeforeConfig : Prop :=
  ∀ (s : State) (ch : BitVec 3), s.fgpc = .idle → s.adcReady = false →
    exec (.adcsample ch) s = .refused .adcNotReady

/-- `ADCSAMPLE ch` with a converter that answers `v` after `n` polls returns `v` and leaves the converter idle with the
channel selected and the reference bits kept (42_adc_sampler.md R187; 95_test_vectors.md V7.6). That a ready port
asks for the host to stand outside `REPORT` is the model's (log 18). -/
def Obligations.AdcsampleRunReturnsValue : Prop :=
  ∀ (s : State) (ch : BitVec 3) (v : Sample) (n : Nat), s.portReady = true → s.adcReady = true → s.adsc = false →
    ∃ t, runMoves (.command (0x50000 + ch.setWidth 20) :: .foreground :: .foreground ::
        (List.replicate n .foreground ++ [.adcDone v, .foreground, .foreground])) s = .next t ∧
      t = { s with
        arg := ch.setWidth 16, amux := (s.amux &&& 0xF8) ||| ch.setWidth 8, adata := v
        result := BitVec.ofNat 16 v.toNat } ∧
      t.refs = s.refs ∧ t.chsel = ch

/-- Without an `ADC_DONE` the foreground polls at `S2` for ever, under every schedule, and `RESULT` is not written
(42_adc_sampler.md R194). That a move its agent cannot take changes nothing is the model's (log 5). -/
def Obligations.SampleHangsWithoutConverter : Prop :=
  ∀ (s : State) (ms : List Move), Inv s → s.fgpc = .smp .s2 → s.adsc = true → (∀ v, Move.adcDone v ∉ ms) →
    ∃ t, runMoves ms s = .next t ∧ t.fgpc = .smp .s2 ∧ t.adsc = true ∧ t.result = s.result

/-- `ADC_DONE` (42_adc_sampler.md R196). That an `ADC_DONE` which is not enabled is refused by name (log 6), and that its
move changes nothing (log 5), are the model's choices. -/
def Obligations.AdcDoneStep : Prop :=
  ∀ (s : State) (v : Sample),
    (s.adsc = true → exec (.adcDone v) s = .next { s with adata := v, actrl := s.actrl &&& 0xBF }) ∧
    (s.adsc = false → exec (.adcDone v) s = .refused .adcDoneNotEnabled ∧ perform (.adcDone v) s = .next s)

/-! ### REPORT and the host -/

/-- The steps of `REPORT`: the sample, the decision, one `TXPUT` a byte, each presented when the one before has retired;
and its preconditions (43_host_periodic_task.md R210, R211). The cut into these steps is the model's (log 18), and so is
the refusal where a precondition does not hold (log 11). -/
def Obligations.ReportSteps : Prop :=
  ∀ s : State, s.fgpc = .idle →
    (s.hostpc = .idle → s.adcReady = true → s.txReady = true → exec .report s = .next { s with
      arg := Config.reportCh.setWidth 16, fgpc := .smp .s0, hostpc := .sampling }) ∧
    (s.hostpc = .idle → s.adcReady = false → exec .report s = .refused .adcNotReady) ∧
    (s.hostpc = .idle → s.adcReady = true → s.txReady = false → exec .report s = .refused .txNotReady) ∧
    (s.hostpc = .sampling → ∃ t c rest, exec .report s = .next t ∧
      decimal s.result.toNat ++ [0x0D, 0x0A] = c :: rest ∧
      t = { s with dout := decide (s.result.toNat > 512), hostpc := .sending c rest }) ∧
    (∀ c rest, s.hostpc = .sending c rest → s.txReady = true → exec .report s = .next { s with
      arg := c.setWidth 16, byte := c, instr := false, fgpc := .enq .p0
      hostpc := match rest with
        | [] => .idle
        | d :: rest' => .sending d rest' }) ∧
    (∀ c rest, s.hostpc = .sending c rest → s.txReady = false → exec .report s = .refused .txNotReady)

/-- `dec(v)` is the decimal representation of `v`: ASCII digits whose value is `v`, no leading zero but in "0"
(43_host_periodic_task.md R213, R214). -/
def Obligations.DecimalDigits : Prop :=
  ∀ v : Nat, v ≤ 1023 →
    (decimal v).foldl (fun n c => 10 * n + (c.toNat - 0x30)) 0 = v ∧
    (∀ c ∈ decimal v, 0x30 ≤ c.toNat ∧ c.toNat ≤ 0x39) ∧
    (v ≠ 0 → (decimal v).head? ≠ some 0x30) ∧
    (decimal v).length = (if v ≤ 9 then 1 else if v ≤ 99 then 2 else if v ≤ 999 then 3 else 4)

/-- One whole `REPORT` with the converter answering `v` at once and no other agent stepping: the digital output is
`v > 512` and the pending bytes gain `dec(v)`, CR, LF (43_host_periodic_task.md R210 to R215). The `report` moves of the run,
one for the sample, one for the decision and one for each byte, and the host's place `hostpc` in the hypothesis and the
conclusion, are the model's cut of `REPORT` into steps (log 18, log 25). -/
def Obligations.ReportRunEnqueuesLine : Prop :=
  ∀ (s : State) (v : Sample), Inv s → s.portReady = true → s.adcReady = true → s.txReady = true →
    count s + (reportBytes v.toNat).length < s.rbN →
    ∃ t, runMoves ([.report, .foreground, .foreground, .adcDone v, .foreground, .foreground, .report] ++
        (List.replicate (reportBytes v.toNat).length (Move.report :: List.replicate 5 .foreground)).flatten) s
        = .next t ∧
      t.dout = decide (v.toNat > 512) ∧ t.result = BitVec.ofNat 16 v.toNat ∧
      pending t = pending s ++ decimal v.toNat ++ [0x0D, 0x0A] ∧ t.fgpc = .idle ∧ t.hostpc = .idle

/-- The host writes `GIE` only when `FGPC = IDLE`, and a byte of `STR` whenever it is not in the string of the `TXPUTS` in
progress; a byte written reads back and every other byte of `STR` keeps its value; and no step changes the string of the
`TXPUTS` in progress (60_exceptions.md R252; 20_memory.md R63, R79). The model's are: that the host writes `STR` byte by
byte (log 9); that no move breaks these duties (log 23), which errs towards proving; that a write against them changes
nothing (log 5). -/
def Obligations.HostWritesWithinContract : Prop :=
  (∀ (s : State) (b : Bool),
    (s.fgpc = .idle → perform (.writeGie b) s = .next { s with gie := b }) ∧
    (s.fgpc ≠ .idle → perform (.writeGie b) s = .next s)) ∧
  (∀ (s : State) (a : Half) (v : Byte), s.str.wf = true →
    (¬ inRunningString s a.toNat →
      ∃ t, perform (.storeStr a v) s = .next t ∧ t = { s with str := t.str } ∧ t.str.read a.toNat = v ∧
        ∀ b, b ≠ a.toNat → t.str.read b = s.str.read b) ∧
    (inRunningString s a.toNat → perform (.storeStr a v) s = .next s)) ∧
  ∀ (s t : State) (a : Half), step s = .next t → inRunningString s a.toNat → t.str.read a.toNat = s.str.read a.toNat

/-! ### Frames -/

/-- What `TXINIT`, `TXPUT` and `TXPUTS` leave unchanged whenever they answer a next state. `TXINIT` may write `GIE`,
`BAUDDIV`, the bits `TXEN` and `UDRIE`, `UFRAME`, `HEAD`, `TAIL`; `TXPUT` and `TXPUTS` may write `NEXT`, `BYTE`, `HEAD`, the
bit `UDRIE` and, at `P2`, the slot `NEXT`; `TXPUTS` also `PTR`; each, as a command, `ARG`, `FGPC` and (but for `TXINIT`)
`INSTR` (40_tx_producer.md R139; 30_encoding.md R91). The host's place and the schedule, unchanged too, are the model's own
fields (log 4, log 18). -/
def Obligations.ProducerFrame : Prop :=
  (∀ (s t : State) (bd : BitVec 12), exec (.txinit bd) s = .next t →
    t.buf = s.buf ∧ t.uctrl &&& 0xD7 = s.uctrl &&& 0xD7 ∧ t.ustat = s.ustat ∧ t.txdata = s.txdata ∧
    t.txlog = s.txlog ∧ t.wire = s.wire ∧ t.next = s.next ∧ t.byte = s.byte ∧ t.ptr = s.ptr ∧ t.result = s.result ∧
    t.instr = s.instr ∧ t.dout = s.dout ∧ sameConverter s t ∧ sameStr s t ∧ sameSchedule s t) ∧
  (∀ (s t : State) (i : Instr), ((∃ b, i = .txput b) ∨ ∃ p, i = .txputs p) → exec i s = .next t →
    t.tail = s.tail ∧ t.uctrl &&& 0xDF = s.uctrl &&& 0xDF ∧ t.uframe = s.uframe ∧ t.bauddiv = s.bauddiv ∧
    t.ustat = s.ustat ∧ t.txdata = s.txdata ∧ t.gie = s.gie ∧ t.txlog = s.txlog ∧ t.wire = s.wire ∧
    t.result = s.result ∧ t.dout = s.dout ∧ sameConverter s t ∧ sameStr s t ∧ sameSchedule s t ∧
    (s.fgpc ≠ .enq .p2 → t.buf = s.buf) ∧ (∀ k, k ≠ s.next.toNat → t.buf[k]? = s.buf[k]?) ∧
    ((∃ b, i = .txput b) → t.ptr = s.ptr))

/-- What `ADCCFG`, `ADCSAMPLE` and `ADC_DONE` leave unchanged whenever they answer a next state: the whole transmit side,
`STR` and the host, and of the converter what 42_adc_sampler.md R198 does not list. The two commands may write `ARG` and
`FGPC`, and `ADCSAMPLE` also `RESULT`. The host's place and the schedule, unchanged too, are the model's own fields (log 4,
log 18). -/
def Obligations.SamplerFrame : Prop :=
  ∀ (s t : State) (i : Instr),
    ((∃ df, i = .adccfg df) ∨ (∃ ch, i = .adcsample ch) ∨ ∃ v, i = .adcDone v) → exec i s = .next t →
    sameRing s t ∧ sameUart s t ∧ t.next = s.next ∧ t.byte = s.byte ∧ t.ptr = s.ptr ∧ t.instr = s.instr ∧
    t.dout = s.dout ∧ sameStr s t ∧ sameSchedule s t ∧
    ((∃ df, i = .adccfg df) → t.amux &&& 0x3F = s.amux &&& 0x3F ∧ t.actrl &&& 0x78 = s.actrl &&& 0x78 ∧
      t.adata = s.adata ∧ t.result = s.result) ∧
    ((∃ ch, i = .adcsample ch) → t.amux &&& 0xF8 = s.amux &&& 0xF8 ∧ t.actrl &&& 0xBF = s.actrl &&& 0xBF ∧
      t.adata = s.adata) ∧
    ((∃ v, i = .adcDone v) → t.amux = s.amux ∧ t.actrl &&& 0xBF = s.actrl &&& 0xBF ∧ sameForeground s t)

/-- What `DRAIN`, `TX_SENT` and `REPORT` leave unchanged whenever they answer a next state. `DRAIN` saves, restores and
changes nothing of the foreground (60_exceptions.md R239, R240; 41_tx_drain.md R152, R158; 43_host_periodic_task.md
R210). `REPORT` may write `DOUT`, the host's place, and what the commands it presents latch: `ARG`, `BYTE`, `INSTR`,
`FGPC`. The clauses of `REPORT` that ask where `hostpc` stands, `DOUT` written and the foreground unchanged in its deciding
step only, rest on the model's cut of `REPORT` into steps and on its host place (log 18); `script` and `draws` are the
model's schedule (log 4). -/
def Obligations.EventAndReportFrame : Prop :=
  (∀ s t : State, exec .drain s = .next t →
    t.buf = s.buf ∧ t.head = s.head ∧ t.uctrl &&& 0xDF = s.uctrl &&& 0xDF ∧ t.ustat &&& 0xDF = s.ustat &&& 0xDF ∧
    t.uframe = s.uframe ∧ t.bauddiv = s.bauddiv ∧ t.gie = s.gie ∧ t.wire = s.wire ∧ t.dout = s.dout ∧
    sameForeground s t ∧ sameConverter s t ∧ sameStr s t ∧ sameSchedule s t) ∧
  (∀ s t : State, exec .txSent s = .next t →
    sameRing s t ∧ t.uctrl = s.uctrl ∧ t.uframe = s.uframe ∧ t.bauddiv = s.bauddiv ∧ t.txdata = s.txdata ∧
    t.ustat &&& 0xDF = s.ustat &&& 0xDF ∧ t.gie = s.gie ∧ t.txlog = s.txlog ∧ t.dout = s.dout ∧
    sameForeground s t ∧ sameConverter s t ∧ sameStr s t ∧ sameSchedule s t) ∧
  (∀ s t : State, exec .report s = .next t →
    sameRing s t ∧ sameUart s t ∧ sameConverter s t ∧ sameStr s t ∧ t.next = s.next ∧ t.ptr = s.ptr ∧
    t.result = s.result ∧ t.script = s.script ∧ t.draws = s.draws ∧
    (s.hostpc ≠ .sampling → t.dout = s.dout) ∧
    (s.hostpc = .sampling → sameForeground s t))
end

