-- ==== Sys2Proof/Laws/State.lean ====
section
/-! SUPPORT. What each named update of the state leaves in each field: one lemma per field and update, true by rfl. -/

namespace Sys2Proof.Machine

@[simp] theorem State.setUdrie_buf (s : State) (b : Bool) : (s.setUdrie b).buf = s.buf := rfl
@[simp] theorem State.setUdrie_head (s : State) (b : Bool) : (s.setUdrie b).head = s.head := rfl
@[simp] theorem State.setUdrie_tail (s : State) (b : Bool) : (s.setUdrie b).tail = s.tail := rfl
@[simp] theorem State.setUdrie_uctrl (s : State) (b : Bool) : (s.setUdrie b).uctrl = withFlag udrieMask s.uctrl b := rfl
@[simp] theorem State.setUdrie_uframe (s : State) (b : Bool) : (s.setUdrie b).uframe = s.uframe := rfl
@[simp] theorem State.setUdrie_bauddiv (s : State) (b : Bool) : (s.setUdrie b).bauddiv = s.bauddiv := rfl
@[simp] theorem State.setUdrie_ustat (s : State) (b : Bool) : (s.setUdrie b).ustat = s.ustat := rfl
@[simp] theorem State.setUdrie_txdata (s : State) (b : Bool) : (s.setUdrie b).txdata = s.txdata := rfl
@[simp] theorem State.setUdrie_gie (s : State) (b : Bool) : (s.setUdrie b).gie = s.gie := rfl
@[simp] theorem State.setUdrie_next (s : State) (b : Bool) : (s.setUdrie b).next = s.next := rfl
@[simp] theorem State.setUdrie_byte (s : State) (b : Bool) : (s.setUdrie b).byte = s.byte := rfl
@[simp] theorem State.setUdrie_ptr (s : State) (b : Bool) : (s.setUdrie b).ptr = s.ptr := rfl
@[simp] theorem State.setUdrie_result (s : State) (b : Bool) : (s.setUdrie b).result = s.result := rfl
@[simp] theorem State.setUdrie_arg (s : State) (b : Bool) : (s.setUdrie b).arg = s.arg := rfl
@[simp] theorem State.setUdrie_fgpc (s : State) (b : Bool) : (s.setUdrie b).fgpc = s.fgpc := rfl
@[simp] theorem State.setUdrie_instr (s : State) (b : Bool) : (s.setUdrie b).instr = s.instr := rfl
@[simp] theorem State.setUdrie_amux (s : State) (b : Bool) : (s.setUdrie b).amux = s.amux := rfl
@[simp] theorem State.setUdrie_actrl (s : State) (b : Bool) : (s.setUdrie b).actrl = s.actrl := rfl
@[simp] theorem State.setUdrie_adata (s : State) (b : Bool) : (s.setUdrie b).adata = s.adata := rfl
@[simp] theorem State.setUdrie_dout (s : State) (b : Bool) : (s.setUdrie b).dout = s.dout := rfl
@[simp] theorem State.setUdrie_txlog (s : State) (b : Bool) : (s.setUdrie b).txlog = s.txlog := rfl
@[simp] theorem State.setUdrie_wire (s : State) (b : Bool) : (s.setUdrie b).wire = s.wire := rfl
@[simp] theorem State.setUdrie_str (s : State) (b : Bool) : (s.setUdrie b).str = s.str := rfl
@[simp] theorem State.setUdrie_hostpc (s : State) (b : Bool) : (s.setUdrie b).hostpc = s.hostpc := rfl
@[simp] theorem State.setUdrie_script (s : State) (b : Bool) : (s.setUdrie b).script = s.script := rfl
@[simp] theorem State.setUdrie_draws (s : State) (b : Bool) : (s.setUdrie b).draws = s.draws := rfl

@[simp] theorem State.setTxen_buf (s : State) (b : Bool) : (s.setTxen b).buf = s.buf := rfl
@[simp] theorem State.setTxen_head (s : State) (b : Bool) : (s.setTxen b).head = s.head := rfl
@[simp] theorem State.setTxen_tail (s : State) (b : Bool) : (s.setTxen b).tail = s.tail := rfl
@[simp] theorem State.setTxen_uctrl (s : State) (b : Bool) : (s.setTxen b).uctrl = withFlag txenMask s.uctrl b := rfl
@[simp] theorem State.setTxen_uframe (s : State) (b : Bool) : (s.setTxen b).uframe = s.uframe := rfl
@[simp] theorem State.setTxen_bauddiv (s : State) (b : Bool) : (s.setTxen b).bauddiv = s.bauddiv := rfl
@[simp] theorem State.setTxen_ustat (s : State) (b : Bool) : (s.setTxen b).ustat = s.ustat := rfl
@[simp] theorem State.setTxen_txdata (s : State) (b : Bool) : (s.setTxen b).txdata = s.txdata := rfl
@[simp] theorem State.setTxen_gie (s : State) (b : Bool) : (s.setTxen b).gie = s.gie := rfl
@[simp] theorem State.setTxen_next (s : State) (b : Bool) : (s.setTxen b).next = s.next := rfl
@[simp] theorem State.setTxen_byte (s : State) (b : Bool) : (s.setTxen b).byte = s.byte := rfl
@[simp] theorem State.setTxen_ptr (s : State) (b : Bool) : (s.setTxen b).ptr = s.ptr := rfl
@[simp] theorem State.setTxen_result (s : State) (b : Bool) : (s.setTxen b).result = s.result := rfl
@[simp] theorem State.setTxen_arg (s : State) (b : Bool) : (s.setTxen b).arg = s.arg := rfl
@[simp] theorem State.setTxen_fgpc (s : State) (b : Bool) : (s.setTxen b).fgpc = s.fgpc := rfl
@[simp] theorem State.setTxen_instr (s : State) (b : Bool) : (s.setTxen b).instr = s.instr := rfl
@[simp] theorem State.setTxen_amux (s : State) (b : Bool) : (s.setTxen b).amux = s.amux := rfl
@[simp] theorem State.setTxen_actrl (s : State) (b : Bool) : (s.setTxen b).actrl = s.actrl := rfl
@[simp] theorem State.setTxen_adata (s : State) (b : Bool) : (s.setTxen b).adata = s.adata := rfl
@[simp] theorem State.setTxen_dout (s : State) (b : Bool) : (s.setTxen b).dout = s.dout := rfl
@[simp] theorem State.setTxen_txlog (s : State) (b : Bool) : (s.setTxen b).txlog = s.txlog := rfl
@[simp] theorem State.setTxen_wire (s : State) (b : Bool) : (s.setTxen b).wire = s.wire := rfl
@[simp] theorem State.setTxen_str (s : State) (b : Bool) : (s.setTxen b).str = s.str := rfl
@[simp] theorem State.setTxen_hostpc (s : State) (b : Bool) : (s.setTxen b).hostpc = s.hostpc := rfl
@[simp] theorem State.setTxen_script (s : State) (b : Bool) : (s.setTxen b).script = s.script := rfl
@[simp] theorem State.setTxen_draws (s : State) (b : Bool) : (s.setTxen b).draws = s.draws := rfl

@[simp] theorem State.setUdre_buf (s : State) (b : Bool) : (s.setUdre b).buf = s.buf := rfl
@[simp] theorem State.setUdre_head (s : State) (b : Bool) : (s.setUdre b).head = s.head := rfl
@[simp] theorem State.setUdre_tail (s : State) (b : Bool) : (s.setUdre b).tail = s.tail := rfl
@[simp] theorem State.setUdre_uctrl (s : State) (b : Bool) : (s.setUdre b).uctrl = s.uctrl := rfl
@[simp] theorem State.setUdre_uframe (s : State) (b : Bool) : (s.setUdre b).uframe = s.uframe := rfl
@[simp] theorem State.setUdre_bauddiv (s : State) (b : Bool) : (s.setUdre b).bauddiv = s.bauddiv := rfl
@[simp] theorem State.setUdre_ustat (s : State) (b : Bool) : (s.setUdre b).ustat = withFlag udreMask s.ustat b := rfl
@[simp] theorem State.setUdre_txdata (s : State) (b : Bool) : (s.setUdre b).txdata = s.txdata := rfl
@[simp] theorem State.setUdre_gie (s : State) (b : Bool) : (s.setUdre b).gie = s.gie := rfl
@[simp] theorem State.setUdre_next (s : State) (b : Bool) : (s.setUdre b).next = s.next := rfl
@[simp] theorem State.setUdre_byte (s : State) (b : Bool) : (s.setUdre b).byte = s.byte := rfl
@[simp] theorem State.setUdre_ptr (s : State) (b : Bool) : (s.setUdre b).ptr = s.ptr := rfl
@[simp] theorem State.setUdre_result (s : State) (b : Bool) : (s.setUdre b).result = s.result := rfl
@[simp] theorem State.setUdre_arg (s : State) (b : Bool) : (s.setUdre b).arg = s.arg := rfl
@[simp] theorem State.setUdre_fgpc (s : State) (b : Bool) : (s.setUdre b).fgpc = s.fgpc := rfl
@[simp] theorem State.setUdre_instr (s : State) (b : Bool) : (s.setUdre b).instr = s.instr := rfl
@[simp] theorem State.setUdre_amux (s : State) (b : Bool) : (s.setUdre b).amux = s.amux := rfl
@[simp] theorem State.setUdre_actrl (s : State) (b : Bool) : (s.setUdre b).actrl = s.actrl := rfl
@[simp] theorem State.setUdre_adata (s : State) (b : Bool) : (s.setUdre b).adata = s.adata := rfl
@[simp] theorem State.setUdre_dout (s : State) (b : Bool) : (s.setUdre b).dout = s.dout := rfl
@[simp] theorem State.setUdre_txlog (s : State) (b : Bool) : (s.setUdre b).txlog = s.txlog := rfl
@[simp] theorem State.setUdre_wire (s : State) (b : Bool) : (s.setUdre b).wire = s.wire := rfl
@[simp] theorem State.setUdre_str (s : State) (b : Bool) : (s.setUdre b).str = s.str := rfl
@[simp] theorem State.setUdre_hostpc (s : State) (b : Bool) : (s.setUdre b).hostpc = s.hostpc := rfl
@[simp] theorem State.setUdre_script (s : State) (b : Bool) : (s.setUdre b).script = s.script := rfl
@[simp] theorem State.setUdre_draws (s : State) (b : Bool) : (s.setUdre b).draws = s.draws := rfl

@[simp] theorem State.setRefs_buf (s : State) (r : BitVec 2) : (s.setRefs r).buf = s.buf := rfl
@[simp] theorem State.setRefs_head (s : State) (r : BitVec 2) : (s.setRefs r).head = s.head := rfl
@[simp] theorem State.setRefs_tail (s : State) (r : BitVec 2) : (s.setRefs r).tail = s.tail := rfl
@[simp] theorem State.setRefs_uctrl (s : State) (r : BitVec 2) : (s.setRefs r).uctrl = s.uctrl := rfl
@[simp] theorem State.setRefs_uframe (s : State) (r : BitVec 2) : (s.setRefs r).uframe = s.uframe := rfl
@[simp] theorem State.setRefs_bauddiv (s : State) (r : BitVec 2) : (s.setRefs r).bauddiv = s.bauddiv := rfl
@[simp] theorem State.setRefs_ustat (s : State) (r : BitVec 2) : (s.setRefs r).ustat = s.ustat := rfl
@[simp] theorem State.setRefs_txdata (s : State) (r : BitVec 2) : (s.setRefs r).txdata = s.txdata := rfl
@[simp] theorem State.setRefs_gie (s : State) (r : BitVec 2) : (s.setRefs r).gie = s.gie := rfl
@[simp] theorem State.setRefs_next (s : State) (r : BitVec 2) : (s.setRefs r).next = s.next := rfl
@[simp] theorem State.setRefs_byte (s : State) (r : BitVec 2) : (s.setRefs r).byte = s.byte := rfl
@[simp] theorem State.setRefs_ptr (s : State) (r : BitVec 2) : (s.setRefs r).ptr = s.ptr := rfl
@[simp] theorem State.setRefs_result (s : State) (r : BitVec 2) : (s.setRefs r).result = s.result := rfl
@[simp] theorem State.setRefs_arg (s : State) (r : BitVec 2) : (s.setRefs r).arg = s.arg := rfl
@[simp] theorem State.setRefs_fgpc (s : State) (r : BitVec 2) : (s.setRefs r).fgpc = s.fgpc := rfl
@[simp] theorem State.setRefs_instr (s : State) (r : BitVec 2) : (s.setRefs r).instr = s.instr := rfl
@[simp] theorem State.setRefs_amux (s : State) (r : BitVec 2) : (s.setRefs r).amux = withField refsMask s.amux (r.setWidth 8 <<< 6) := rfl
@[simp] theorem State.setRefs_actrl (s : State) (r : BitVec 2) : (s.setRefs r).actrl = s.actrl := rfl
@[simp] theorem State.setRefs_adata (s : State) (r : BitVec 2) : (s.setRefs r).adata = s.adata := rfl
@[simp] theorem State.setRefs_dout (s : State) (r : BitVec 2) : (s.setRefs r).dout = s.dout := rfl
@[simp] theorem State.setRefs_txlog (s : State) (r : BitVec 2) : (s.setRefs r).txlog = s.txlog := rfl
@[simp] theorem State.setRefs_wire (s : State) (r : BitVec 2) : (s.setRefs r).wire = s.wire := rfl
@[simp] theorem State.setRefs_str (s : State) (r : BitVec 2) : (s.setRefs r).str = s.str := rfl
@[simp] theorem State.setRefs_hostpc (s : State) (r : BitVec 2) : (s.setRefs r).hostpc = s.hostpc := rfl
@[simp] theorem State.setRefs_script (s : State) (r : BitVec 2) : (s.setRefs r).script = s.script := rfl
@[simp] theorem State.setRefs_draws (s : State) (r : BitVec 2) : (s.setRefs r).draws = s.draws := rfl

@[simp] theorem State.setChsel_buf (s : State) (c : BitVec 3) : (s.setChsel c).buf = s.buf := rfl
@[simp] theorem State.setChsel_head (s : State) (c : BitVec 3) : (s.setChsel c).head = s.head := rfl
@[simp] theorem State.setChsel_tail (s : State) (c : BitVec 3) : (s.setChsel c).tail = s.tail := rfl
@[simp] theorem State.setChsel_uctrl (s : State) (c : BitVec 3) : (s.setChsel c).uctrl = s.uctrl := rfl
@[simp] theorem State.setChsel_uframe (s : State) (c : BitVec 3) : (s.setChsel c).uframe = s.uframe := rfl
@[simp] theorem State.setChsel_bauddiv (s : State) (c : BitVec 3) : (s.setChsel c).bauddiv = s.bauddiv := rfl
@[simp] theorem State.setChsel_ustat (s : State) (c : BitVec 3) : (s.setChsel c).ustat = s.ustat := rfl
@[simp] theorem State.setChsel_txdata (s : State) (c : BitVec 3) : (s.setChsel c).txdata = s.txdata := rfl
@[simp] theorem State.setChsel_gie (s : State) (c : BitVec 3) : (s.setChsel c).gie = s.gie := rfl
@[simp] theorem State.setChsel_next (s : State) (c : BitVec 3) : (s.setChsel c).next = s.next := rfl
@[simp] theorem State.setChsel_byte (s : State) (c : BitVec 3) : (s.setChsel c).byte = s.byte := rfl
@[simp] theorem State.setChsel_ptr (s : State) (c : BitVec 3) : (s.setChsel c).ptr = s.ptr := rfl
@[simp] theorem State.setChsel_result (s : State) (c : BitVec 3) : (s.setChsel c).result = s.result := rfl
@[simp] theorem State.setChsel_arg (s : State) (c : BitVec 3) : (s.setChsel c).arg = s.arg := rfl
@[simp] theorem State.setChsel_fgpc (s : State) (c : BitVec 3) : (s.setChsel c).fgpc = s.fgpc := rfl
@[simp] theorem State.setChsel_instr (s : State) (c : BitVec 3) : (s.setChsel c).instr = s.instr := rfl
@[simp] theorem State.setChsel_amux (s : State) (c : BitVec 3) : (s.setChsel c).amux = withField chselMask s.amux (c.setWidth 8) := rfl
@[simp] theorem State.setChsel_actrl (s : State) (c : BitVec 3) : (s.setChsel c).actrl = s.actrl := rfl
@[simp] theorem State.setChsel_adata (s : State) (c : BitVec 3) : (s.setChsel c).adata = s.adata := rfl
@[simp] theorem State.setChsel_dout (s : State) (c : BitVec 3) : (s.setChsel c).dout = s.dout := rfl
@[simp] theorem State.setChsel_txlog (s : State) (c : BitVec 3) : (s.setChsel c).txlog = s.txlog := rfl
@[simp] theorem State.setChsel_wire (s : State) (c : BitVec 3) : (s.setChsel c).wire = s.wire := rfl
@[simp] theorem State.setChsel_str (s : State) (c : BitVec 3) : (s.setChsel c).str = s.str := rfl
@[simp] theorem State.setChsel_hostpc (s : State) (c : BitVec 3) : (s.setChsel c).hostpc = s.hostpc := rfl
@[simp] theorem State.setChsel_script (s : State) (c : BitVec 3) : (s.setChsel c).script = s.script := rfl
@[simp] theorem State.setChsel_draws (s : State) (c : BitVec 3) : (s.setChsel c).draws = s.draws := rfl

@[simp] theorem State.setAden_buf (s : State) (b : Bool) : (s.setAden b).buf = s.buf := rfl
@[simp] theorem State.setAden_head (s : State) (b : Bool) : (s.setAden b).head = s.head := rfl
@[simp] theorem State.setAden_tail (s : State) (b : Bool) : (s.setAden b).tail = s.tail := rfl
@[simp] theorem State.setAden_uctrl (s : State) (b : Bool) : (s.setAden b).uctrl = s.uctrl := rfl
@[simp] theorem State.setAden_uframe (s : State) (b : Bool) : (s.setAden b).uframe = s.uframe := rfl
@[simp] theorem State.setAden_bauddiv (s : State) (b : Bool) : (s.setAden b).bauddiv = s.bauddiv := rfl
@[simp] theorem State.setAden_ustat (s : State) (b : Bool) : (s.setAden b).ustat = s.ustat := rfl
@[simp] theorem State.setAden_txdata (s : State) (b : Bool) : (s.setAden b).txdata = s.txdata := rfl
@[simp] theorem State.setAden_gie (s : State) (b : Bool) : (s.setAden b).gie = s.gie := rfl
@[simp] theorem State.setAden_next (s : State) (b : Bool) : (s.setAden b).next = s.next := rfl
@[simp] theorem State.setAden_byte (s : State) (b : Bool) : (s.setAden b).byte = s.byte := rfl
@[simp] theorem State.setAden_ptr (s : State) (b : Bool) : (s.setAden b).ptr = s.ptr := rfl
@[simp] theorem State.setAden_result (s : State) (b : Bool) : (s.setAden b).result = s.result := rfl
@[simp] theorem State.setAden_arg (s : State) (b : Bool) : (s.setAden b).arg = s.arg := rfl
@[simp] theorem State.setAden_fgpc (s : State) (b : Bool) : (s.setAden b).fgpc = s.fgpc := rfl
@[simp] theorem State.setAden_instr (s : State) (b : Bool) : (s.setAden b).instr = s.instr := rfl
@[simp] theorem State.setAden_amux (s : State) (b : Bool) : (s.setAden b).amux = s.amux := rfl
@[simp] theorem State.setAden_actrl (s : State) (b : Bool) : (s.setAden b).actrl = withFlag adenMask s.actrl b := rfl
@[simp] theorem State.setAden_adata (s : State) (b : Bool) : (s.setAden b).adata = s.adata := rfl
@[simp] theorem State.setAden_dout (s : State) (b : Bool) : (s.setAden b).dout = s.dout := rfl
@[simp] theorem State.setAden_txlog (s : State) (b : Bool) : (s.setAden b).txlog = s.txlog := rfl
@[simp] theorem State.setAden_wire (s : State) (b : Bool) : (s.setAden b).wire = s.wire := rfl
@[simp] theorem State.setAden_str (s : State) (b : Bool) : (s.setAden b).str = s.str := rfl
@[simp] theorem State.setAden_hostpc (s : State) (b : Bool) : (s.setAden b).hostpc = s.hostpc := rfl
@[simp] theorem State.setAden_script (s : State) (b : Bool) : (s.setAden b).script = s.script := rfl
@[simp] theorem State.setAden_draws (s : State) (b : Bool) : (s.setAden b).draws = s.draws := rfl

@[simp] theorem State.setAdsc_buf (s : State) (b : Bool) : (s.setAdsc b).buf = s.buf := rfl
@[simp] theorem State.setAdsc_head (s : State) (b : Bool) : (s.setAdsc b).head = s.head := rfl
@[simp] theorem State.setAdsc_tail (s : State) (b : Bool) : (s.setAdsc b).tail = s.tail := rfl
@[simp] theorem State.setAdsc_uctrl (s : State) (b : Bool) : (s.setAdsc b).uctrl = s.uctrl := rfl
@[simp] theorem State.setAdsc_uframe (s : State) (b : Bool) : (s.setAdsc b).uframe = s.uframe := rfl
@[simp] theorem State.setAdsc_bauddiv (s : State) (b : Bool) : (s.setAdsc b).bauddiv = s.bauddiv := rfl
@[simp] theorem State.setAdsc_ustat (s : State) (b : Bool) : (s.setAdsc b).ustat = s.ustat := rfl
@[simp] theorem State.setAdsc_txdata (s : State) (b : Bool) : (s.setAdsc b).txdata = s.txdata := rfl
@[simp] theorem State.setAdsc_gie (s : State) (b : Bool) : (s.setAdsc b).gie = s.gie := rfl
@[simp] theorem State.setAdsc_next (s : State) (b : Bool) : (s.setAdsc b).next = s.next := rfl
@[simp] theorem State.setAdsc_byte (s : State) (b : Bool) : (s.setAdsc b).byte = s.byte := rfl
@[simp] theorem State.setAdsc_ptr (s : State) (b : Bool) : (s.setAdsc b).ptr = s.ptr := rfl
@[simp] theorem State.setAdsc_result (s : State) (b : Bool) : (s.setAdsc b).result = s.result := rfl
@[simp] theorem State.setAdsc_arg (s : State) (b : Bool) : (s.setAdsc b).arg = s.arg := rfl
@[simp] theorem State.setAdsc_fgpc (s : State) (b : Bool) : (s.setAdsc b).fgpc = s.fgpc := rfl
@[simp] theorem State.setAdsc_instr (s : State) (b : Bool) : (s.setAdsc b).instr = s.instr := rfl
@[simp] theorem State.setAdsc_amux (s : State) (b : Bool) : (s.setAdsc b).amux = s.amux := rfl
@[simp] theorem State.setAdsc_actrl (s : State) (b : Bool) : (s.setAdsc b).actrl = withFlag adscMask s.actrl b := rfl
@[simp] theorem State.setAdsc_adata (s : State) (b : Bool) : (s.setAdsc b).adata = s.adata := rfl
@[simp] theorem State.setAdsc_dout (s : State) (b : Bool) : (s.setAdsc b).dout = s.dout := rfl
@[simp] theorem State.setAdsc_txlog (s : State) (b : Bool) : (s.setAdsc b).txlog = s.txlog := rfl
@[simp] theorem State.setAdsc_wire (s : State) (b : Bool) : (s.setAdsc b).wire = s.wire := rfl
@[simp] theorem State.setAdsc_str (s : State) (b : Bool) : (s.setAdsc b).str = s.str := rfl
@[simp] theorem State.setAdsc_hostpc (s : State) (b : Bool) : (s.setAdsc b).hostpc = s.hostpc := rfl
@[simp] theorem State.setAdsc_script (s : State) (b : Bool) : (s.setAdsc b).script = s.script := rfl
@[simp] theorem State.setAdsc_draws (s : State) (b : Bool) : (s.setAdsc b).draws = s.draws := rfl

@[simp] theorem State.setAdps_buf (s : State) (c : BitVec 3) : (s.setAdps c).buf = s.buf := rfl
@[simp] theorem State.setAdps_head (s : State) (c : BitVec 3) : (s.setAdps c).head = s.head := rfl
@[simp] theorem State.setAdps_tail (s : State) (c : BitVec 3) : (s.setAdps c).tail = s.tail := rfl
@[simp] theorem State.setAdps_uctrl (s : State) (c : BitVec 3) : (s.setAdps c).uctrl = s.uctrl := rfl
@[simp] theorem State.setAdps_uframe (s : State) (c : BitVec 3) : (s.setAdps c).uframe = s.uframe := rfl
@[simp] theorem State.setAdps_bauddiv (s : State) (c : BitVec 3) : (s.setAdps c).bauddiv = s.bauddiv := rfl
@[simp] theorem State.setAdps_ustat (s : State) (c : BitVec 3) : (s.setAdps c).ustat = s.ustat := rfl
@[simp] theorem State.setAdps_txdata (s : State) (c : BitVec 3) : (s.setAdps c).txdata = s.txdata := rfl
@[simp] theorem State.setAdps_gie (s : State) (c : BitVec 3) : (s.setAdps c).gie = s.gie := rfl
@[simp] theorem State.setAdps_next (s : State) (c : BitVec 3) : (s.setAdps c).next = s.next := rfl
@[simp] theorem State.setAdps_byte (s : State) (c : BitVec 3) : (s.setAdps c).byte = s.byte := rfl
@[simp] theorem State.setAdps_ptr (s : State) (c : BitVec 3) : (s.setAdps c).ptr = s.ptr := rfl
@[simp] theorem State.setAdps_result (s : State) (c : BitVec 3) : (s.setAdps c).result = s.result := rfl
@[simp] theorem State.setAdps_arg (s : State) (c : BitVec 3) : (s.setAdps c).arg = s.arg := rfl
@[simp] theorem State.setAdps_fgpc (s : State) (c : BitVec 3) : (s.setAdps c).fgpc = s.fgpc := rfl
@[simp] theorem State.setAdps_instr (s : State) (c : BitVec 3) : (s.setAdps c).instr = s.instr := rfl
@[simp] theorem State.setAdps_amux (s : State) (c : BitVec 3) : (s.setAdps c).amux = s.amux := rfl
@[simp] theorem State.setAdps_actrl (s : State) (c : BitVec 3) : (s.setAdps c).actrl = withField adpsMask s.actrl (c.setWidth 8) := rfl
@[simp] theorem State.setAdps_adata (s : State) (c : BitVec 3) : (s.setAdps c).adata = s.adata := rfl
@[simp] theorem State.setAdps_dout (s : State) (c : BitVec 3) : (s.setAdps c).dout = s.dout := rfl
@[simp] theorem State.setAdps_txlog (s : State) (c : BitVec 3) : (s.setAdps c).txlog = s.txlog := rfl
@[simp] theorem State.setAdps_wire (s : State) (c : BitVec 3) : (s.setAdps c).wire = s.wire := rfl
@[simp] theorem State.setAdps_str (s : State) (c : BitVec 3) : (s.setAdps c).str = s.str := rfl
@[simp] theorem State.setAdps_hostpc (s : State) (c : BitVec 3) : (s.setAdps c).hostpc = s.hostpc := rfl
@[simp] theorem State.setAdps_script (s : State) (c : BitVec 3) : (s.setAdps c).script = s.script := rfl
@[simp] theorem State.setAdps_draws (s : State) (c : BitVec 3) : (s.setAdps c).draws = s.draws := rfl

@[simp] theorem State.goto_buf (s : State) (l : Fgpc) : (s.goto l).buf = s.buf := rfl
@[simp] theorem State.goto_head (s : State) (l : Fgpc) : (s.goto l).head = s.head := rfl
@[simp] theorem State.goto_tail (s : State) (l : Fgpc) : (s.goto l).tail = s.tail := rfl
@[simp] theorem State.goto_uctrl (s : State) (l : Fgpc) : (s.goto l).uctrl = s.uctrl := rfl
@[simp] theorem State.goto_uframe (s : State) (l : Fgpc) : (s.goto l).uframe = s.uframe := rfl
@[simp] theorem State.goto_bauddiv (s : State) (l : Fgpc) : (s.goto l).bauddiv = s.bauddiv := rfl
@[simp] theorem State.goto_ustat (s : State) (l : Fgpc) : (s.goto l).ustat = s.ustat := rfl
@[simp] theorem State.goto_txdata (s : State) (l : Fgpc) : (s.goto l).txdata = s.txdata := rfl
@[simp] theorem State.goto_gie (s : State) (l : Fgpc) : (s.goto l).gie = s.gie := rfl
@[simp] theorem State.goto_next (s : State) (l : Fgpc) : (s.goto l).next = s.next := rfl
@[simp] theorem State.goto_byte (s : State) (l : Fgpc) : (s.goto l).byte = s.byte := rfl
@[simp] theorem State.goto_ptr (s : State) (l : Fgpc) : (s.goto l).ptr = s.ptr := rfl
@[simp] theorem State.goto_result (s : State) (l : Fgpc) : (s.goto l).result = s.result := rfl
@[simp] theorem State.goto_arg (s : State) (l : Fgpc) : (s.goto l).arg = s.arg := rfl
@[simp] theorem State.goto_fgpc (s : State) (l : Fgpc) : (s.goto l).fgpc = l := rfl
@[simp] theorem State.goto_instr (s : State) (l : Fgpc) : (s.goto l).instr = s.instr := rfl
@[simp] theorem State.goto_amux (s : State) (l : Fgpc) : (s.goto l).amux = s.amux := rfl
@[simp] theorem State.goto_actrl (s : State) (l : Fgpc) : (s.goto l).actrl = s.actrl := rfl
@[simp] theorem State.goto_adata (s : State) (l : Fgpc) : (s.goto l).adata = s.adata := rfl
@[simp] theorem State.goto_dout (s : State) (l : Fgpc) : (s.goto l).dout = s.dout := rfl
@[simp] theorem State.goto_txlog (s : State) (l : Fgpc) : (s.goto l).txlog = s.txlog := rfl
@[simp] theorem State.goto_wire (s : State) (l : Fgpc) : (s.goto l).wire = s.wire := rfl
@[simp] theorem State.goto_str (s : State) (l : Fgpc) : (s.goto l).str = s.str := rfl
@[simp] theorem State.goto_hostpc (s : State) (l : Fgpc) : (s.goto l).hostpc = s.hostpc := rfl
@[simp] theorem State.goto_script (s : State) (l : Fgpc) : (s.goto l).script = s.script := rfl
@[simp] theorem State.goto_draws (s : State) (l : Fgpc) : (s.goto l).draws = s.draws := rfl

@[simp] theorem State.writeTxdata_buf (s : State) (b : Byte) : (s.writeTxdata b).buf = s.buf := rfl
@[simp] theorem State.writeTxdata_head (s : State) (b : Byte) : (s.writeTxdata b).head = s.head := rfl
@[simp] theorem State.writeTxdata_tail (s : State) (b : Byte) : (s.writeTxdata b).tail = s.tail := rfl
@[simp] theorem State.writeTxdata_uctrl (s : State) (b : Byte) : (s.writeTxdata b).uctrl = s.uctrl := rfl
@[simp] theorem State.writeTxdata_uframe (s : State) (b : Byte) : (s.writeTxdata b).uframe = s.uframe := rfl
@[simp] theorem State.writeTxdata_bauddiv (s : State) (b : Byte) : (s.writeTxdata b).bauddiv = s.bauddiv := rfl
@[simp] theorem State.writeTxdata_ustat (s : State) (b : Byte) : (s.writeTxdata b).ustat = withFlag udreMask s.ustat false := rfl
@[simp] theorem State.writeTxdata_txdata (s : State) (b : Byte) : (s.writeTxdata b).txdata = b := rfl
@[simp] theorem State.writeTxdata_gie (s : State) (b : Byte) : (s.writeTxdata b).gie = s.gie := rfl
@[simp] theorem State.writeTxdata_next (s : State) (b : Byte) : (s.writeTxdata b).next = s.next := rfl
@[simp] theorem State.writeTxdata_byte (s : State) (b : Byte) : (s.writeTxdata b).byte = s.byte := rfl
@[simp] theorem State.writeTxdata_ptr (s : State) (b : Byte) : (s.writeTxdata b).ptr = s.ptr := rfl
@[simp] theorem State.writeTxdata_result (s : State) (b : Byte) : (s.writeTxdata b).result = s.result := rfl
@[simp] theorem State.writeTxdata_arg (s : State) (b : Byte) : (s.writeTxdata b).arg = s.arg := rfl
@[simp] theorem State.writeTxdata_fgpc (s : State) (b : Byte) : (s.writeTxdata b).fgpc = s.fgpc := rfl
@[simp] theorem State.writeTxdata_instr (s : State) (b : Byte) : (s.writeTxdata b).instr = s.instr := rfl
@[simp] theorem State.writeTxdata_amux (s : State) (b : Byte) : (s.writeTxdata b).amux = s.amux := rfl
@[simp] theorem State.writeTxdata_actrl (s : State) (b : Byte) : (s.writeTxdata b).actrl = s.actrl := rfl
@[simp] theorem State.writeTxdata_adata (s : State) (b : Byte) : (s.writeTxdata b).adata = s.adata := rfl
@[simp] theorem State.writeTxdata_dout (s : State) (b : Byte) : (s.writeTxdata b).dout = s.dout := rfl
@[simp] theorem State.writeTxdata_txlog (s : State) (b : Byte) : (s.writeTxdata b).txlog = s.txlog ++ [b] := rfl
@[simp] theorem State.writeTxdata_wire (s : State) (b : Byte) : (s.writeTxdata b).wire = s.wire := rfl
@[simp] theorem State.writeTxdata_str (s : State) (b : Byte) : (s.writeTxdata b).str = s.str := rfl
@[simp] theorem State.writeTxdata_hostpc (s : State) (b : Byte) : (s.writeTxdata b).hostpc = s.hostpc := rfl
@[simp] theorem State.writeTxdata_script (s : State) (b : Byte) : (s.writeTxdata b).script = s.script := rfl
@[simp] theorem State.writeTxdata_draws (s : State) (b : Byte) : (s.writeTxdata b).draws = s.draws := rfl

@[simp] theorem State.byteSent_buf (s : State) : s.byteSent.buf = s.buf := rfl
@[simp] theorem State.byteSent_head (s : State) : s.byteSent.head = s.head := rfl
@[simp] theorem State.byteSent_tail (s : State) : s.byteSent.tail = s.tail := rfl
@[simp] theorem State.byteSent_uctrl (s : State) : s.byteSent.uctrl = s.uctrl := rfl
@[simp] theorem State.byteSent_uframe (s : State) : s.byteSent.uframe = s.uframe := rfl
@[simp] theorem State.byteSent_bauddiv (s : State) : s.byteSent.bauddiv = s.bauddiv := rfl
@[simp] theorem State.byteSent_ustat (s : State) : s.byteSent.ustat = withFlag udreMask s.ustat true := rfl
@[simp] theorem State.byteSent_txdata (s : State) : s.byteSent.txdata = s.txdata := rfl
@[simp] theorem State.byteSent_gie (s : State) : s.byteSent.gie = s.gie := rfl
@[simp] theorem State.byteSent_next (s : State) : s.byteSent.next = s.next := rfl
@[simp] theorem State.byteSent_byte (s : State) : s.byteSent.byte = s.byte := rfl
@[simp] theorem State.byteSent_ptr (s : State) : s.byteSent.ptr = s.ptr := rfl
@[simp] theorem State.byteSent_result (s : State) : s.byteSent.result = s.result := rfl
@[simp] theorem State.byteSent_arg (s : State) : s.byteSent.arg = s.arg := rfl
@[simp] theorem State.byteSent_fgpc (s : State) : s.byteSent.fgpc = s.fgpc := rfl
@[simp] theorem State.byteSent_instr (s : State) : s.byteSent.instr = s.instr := rfl
@[simp] theorem State.byteSent_amux (s : State) : s.byteSent.amux = s.amux := rfl
@[simp] theorem State.byteSent_actrl (s : State) : s.byteSent.actrl = s.actrl := rfl
@[simp] theorem State.byteSent_adata (s : State) : s.byteSent.adata = s.adata := rfl
@[simp] theorem State.byteSent_dout (s : State) : s.byteSent.dout = s.dout := rfl
@[simp] theorem State.byteSent_txlog (s : State) : s.byteSent.txlog = s.txlog := rfl
@[simp] theorem State.byteSent_wire (s : State) : s.byteSent.wire = s.wire ++ [s.txdata] := rfl
@[simp] theorem State.byteSent_str (s : State) : s.byteSent.str = s.str := rfl
@[simp] theorem State.byteSent_hostpc (s : State) : s.byteSent.hostpc = s.hostpc := rfl
@[simp] theorem State.byteSent_script (s : State) : s.byteSent.script = s.script := rfl
@[simp] theorem State.byteSent_draws (s : State) : s.byteSent.draws = s.draws := rfl

@[simp] theorem State.conversionDone_buf (s : State) (v : Sample) : (s.conversionDone v).buf = s.buf := rfl
@[simp] theorem State.conversionDone_head (s : State) (v : Sample) : (s.conversionDone v).head = s.head := rfl
@[simp] theorem State.conversionDone_tail (s : State) (v : Sample) : (s.conversionDone v).tail = s.tail := rfl
@[simp] theorem State.conversionDone_uctrl (s : State) (v : Sample) : (s.conversionDone v).uctrl = s.uctrl := rfl
@[simp] theorem State.conversionDone_uframe (s : State) (v : Sample) : (s.conversionDone v).uframe = s.uframe := rfl
@[simp] theorem State.conversionDone_bauddiv (s : State) (v : Sample) : (s.conversionDone v).bauddiv = s.bauddiv := rfl
@[simp] theorem State.conversionDone_ustat (s : State) (v : Sample) : (s.conversionDone v).ustat = s.ustat := rfl
@[simp] theorem State.conversionDone_txdata (s : State) (v : Sample) : (s.conversionDone v).txdata = s.txdata := rfl
@[simp] theorem State.conversionDone_gie (s : State) (v : Sample) : (s.conversionDone v).gie = s.gie := rfl
@[simp] theorem State.conversionDone_next (s : State) (v : Sample) : (s.conversionDone v).next = s.next := rfl
@[simp] theorem State.conversionDone_byte (s : State) (v : Sample) : (s.conversionDone v).byte = s.byte := rfl
@[simp] theorem State.conversionDone_ptr (s : State) (v : Sample) : (s.conversionDone v).ptr = s.ptr := rfl
@[simp] theorem State.conversionDone_result (s : State) (v : Sample) : (s.conversionDone v).result = s.result := rfl
@[simp] theorem State.conversionDone_arg (s : State) (v : Sample) : (s.conversionDone v).arg = s.arg := rfl
@[simp] theorem State.conversionDone_fgpc (s : State) (v : Sample) : (s.conversionDone v).fgpc = s.fgpc := rfl
@[simp] theorem State.conversionDone_instr (s : State) (v : Sample) : (s.conversionDone v).instr = s.instr := rfl
@[simp] theorem State.conversionDone_amux (s : State) (v : Sample) : (s.conversionDone v).amux = s.amux := rfl
@[simp] theorem State.conversionDone_actrl (s : State) (v : Sample) : (s.conversionDone v).actrl = withFlag adscMask s.actrl false := rfl
@[simp] theorem State.conversionDone_adata (s : State) (v : Sample) : (s.conversionDone v).adata = v := rfl
@[simp] theorem State.conversionDone_dout (s : State) (v : Sample) : (s.conversionDone v).dout = s.dout := rfl
@[simp] theorem State.conversionDone_txlog (s : State) (v : Sample) : (s.conversionDone v).txlog = s.txlog := rfl
@[simp] theorem State.conversionDone_wire (s : State) (v : Sample) : (s.conversionDone v).wire = s.wire := rfl
@[simp] theorem State.conversionDone_str (s : State) (v : Sample) : (s.conversionDone v).str = s.str := rfl
@[simp] theorem State.conversionDone_hostpc (s : State) (v : Sample) : (s.conversionDone v).hostpc = s.hostpc := rfl
@[simp] theorem State.conversionDone_script (s : State) (v : Sample) : (s.conversionDone v).script = s.script := rfl
@[simp] theorem State.conversionDone_draws (s : State) (v : Sample) : (s.conversionDone v).draws = s.draws := rfl

@[simp] theorem State.latch_buf (s : State) (a : Half) (l : Fgpc) : (s.latch a l).buf = s.buf := rfl
@[simp] theorem State.latch_head (s : State) (a : Half) (l : Fgpc) : (s.latch a l).head = s.head := rfl
@[simp] theorem State.latch_tail (s : State) (a : Half) (l : Fgpc) : (s.latch a l).tail = s.tail := rfl
@[simp] theorem State.latch_uctrl (s : State) (a : Half) (l : Fgpc) : (s.latch a l).uctrl = s.uctrl := rfl
@[simp] theorem State.latch_uframe (s : State) (a : Half) (l : Fgpc) : (s.latch a l).uframe = s.uframe := rfl
@[simp] theorem State.latch_bauddiv (s : State) (a : Half) (l : Fgpc) : (s.latch a l).bauddiv = s.bauddiv := rfl
@[simp] theorem State.latch_ustat (s : State) (a : Half) (l : Fgpc) : (s.latch a l).ustat = s.ustat := rfl
@[simp] theorem State.latch_txdata (s : State) (a : Half) (l : Fgpc) : (s.latch a l).txdata = s.txdata := rfl
@[simp] theorem State.latch_gie (s : State) (a : Half) (l : Fgpc) : (s.latch a l).gie = s.gie := rfl
@[simp] theorem State.latch_next (s : State) (a : Half) (l : Fgpc) : (s.latch a l).next = s.next := rfl
@[simp] theorem State.latch_byte (s : State) (a : Half) (l : Fgpc) : (s.latch a l).byte = s.byte := rfl
@[simp] theorem State.latch_ptr (s : State) (a : Half) (l : Fgpc) : (s.latch a l).ptr = s.ptr := rfl
@[simp] theorem State.latch_result (s : State) (a : Half) (l : Fgpc) : (s.latch a l).result = s.result := rfl
@[simp] theorem State.latch_arg (s : State) (a : Half) (l : Fgpc) : (s.latch a l).arg = a := rfl
@[simp] theorem State.latch_fgpc (s : State) (a : Half) (l : Fgpc) : (s.latch a l).fgpc = l := rfl
@[simp] theorem State.latch_instr (s : State) (a : Half) (l : Fgpc) : (s.latch a l).instr = s.instr := rfl
@[simp] theorem State.latch_amux (s : State) (a : Half) (l : Fgpc) : (s.latch a l).amux = s.amux := rfl
@[simp] theorem State.latch_actrl (s : State) (a : Half) (l : Fgpc) : (s.latch a l).actrl = s.actrl := rfl
@[simp] theorem State.latch_adata (s : State) (a : Half) (l : Fgpc) : (s.latch a l).adata = s.adata := rfl
@[simp] theorem State.latch_dout (s : State) (a : Half) (l : Fgpc) : (s.latch a l).dout = s.dout := rfl
@[simp] theorem State.latch_txlog (s : State) (a : Half) (l : Fgpc) : (s.latch a l).txlog = s.txlog := rfl
@[simp] theorem State.latch_wire (s : State) (a : Half) (l : Fgpc) : (s.latch a l).wire = s.wire := rfl
@[simp] theorem State.latch_str (s : State) (a : Half) (l : Fgpc) : (s.latch a l).str = s.str := rfl
@[simp] theorem State.latch_hostpc (s : State) (a : Half) (l : Fgpc) : (s.latch a l).hostpc = s.hostpc := rfl
@[simp] theorem State.latch_script (s : State) (a : Half) (l : Fgpc) : (s.latch a l).script = s.script := rfl
@[simp] theorem State.latch_draws (s : State) (a : Half) (l : Fgpc) : (s.latch a l).draws = s.draws := rfl

@[simp] theorem State.acceptPut_buf (s : State) (b : Byte) : (s.acceptPut b).buf = s.buf := rfl
@[simp] theorem State.acceptPut_head (s : State) (b : Byte) : (s.acceptPut b).head = s.head := rfl
@[simp] theorem State.acceptPut_tail (s : State) (b : Byte) : (s.acceptPut b).tail = s.tail := rfl
@[simp] theorem State.acceptPut_uctrl (s : State) (b : Byte) : (s.acceptPut b).uctrl = s.uctrl := rfl
@[simp] theorem State.acceptPut_uframe (s : State) (b : Byte) : (s.acceptPut b).uframe = s.uframe := rfl
@[simp] theorem State.acceptPut_bauddiv (s : State) (b : Byte) : (s.acceptPut b).bauddiv = s.bauddiv := rfl
@[simp] theorem State.acceptPut_ustat (s : State) (b : Byte) : (s.acceptPut b).ustat = s.ustat := rfl
@[simp] theorem State.acceptPut_txdata (s : State) (b : Byte) : (s.acceptPut b).txdata = s.txdata := rfl
@[simp] theorem State.acceptPut_gie (s : State) (b : Byte) : (s.acceptPut b).gie = s.gie := rfl
@[simp] theorem State.acceptPut_next (s : State) (b : Byte) : (s.acceptPut b).next = s.next := rfl
@[simp] theorem State.acceptPut_byte (s : State) (b : Byte) : (s.acceptPut b).byte = b := rfl
@[simp] theorem State.acceptPut_ptr (s : State) (b : Byte) : (s.acceptPut b).ptr = s.ptr := rfl
@[simp] theorem State.acceptPut_result (s : State) (b : Byte) : (s.acceptPut b).result = s.result := rfl
@[simp] theorem State.acceptPut_arg (s : State) (b : Byte) : (s.acceptPut b).arg = b.setWidth 16 := rfl
@[simp] theorem State.acceptPut_fgpc (s : State) (b : Byte) : (s.acceptPut b).fgpc = .enq .p0 := rfl
@[simp] theorem State.acceptPut_instr (s : State) (b : Byte) : (s.acceptPut b).instr = false := rfl
@[simp] theorem State.acceptPut_amux (s : State) (b : Byte) : (s.acceptPut b).amux = s.amux := rfl
@[simp] theorem State.acceptPut_actrl (s : State) (b : Byte) : (s.acceptPut b).actrl = s.actrl := rfl
@[simp] theorem State.acceptPut_adata (s : State) (b : Byte) : (s.acceptPut b).adata = s.adata := rfl
@[simp] theorem State.acceptPut_dout (s : State) (b : Byte) : (s.acceptPut b).dout = s.dout := rfl
@[simp] theorem State.acceptPut_txlog (s : State) (b : Byte) : (s.acceptPut b).txlog = s.txlog := rfl
@[simp] theorem State.acceptPut_wire (s : State) (b : Byte) : (s.acceptPut b).wire = s.wire := rfl
@[simp] theorem State.acceptPut_str (s : State) (b : Byte) : (s.acceptPut b).str = s.str := rfl
@[simp] theorem State.acceptPut_hostpc (s : State) (b : Byte) : (s.acceptPut b).hostpc = s.hostpc := rfl
@[simp] theorem State.acceptPut_script (s : State) (b : Byte) : (s.acceptPut b).script = s.script := rfl
@[simp] theorem State.acceptPut_draws (s : State) (b : Byte) : (s.acceptPut b).draws = s.draws := rfl

@[simp] theorem State.acceptSample_buf (s : State) (c : BitVec 3) : (s.acceptSample c).buf = s.buf := rfl
@[simp] theorem State.acceptSample_head (s : State) (c : BitVec 3) : (s.acceptSample c).head = s.head := rfl
@[simp] theorem State.acceptSample_tail (s : State) (c : BitVec 3) : (s.acceptSample c).tail = s.tail := rfl
@[simp] theorem State.acceptSample_uctrl (s : State) (c : BitVec 3) : (s.acceptSample c).uctrl = s.uctrl := rfl
@[simp] theorem State.acceptSample_uframe (s : State) (c : BitVec 3) : (s.acceptSample c).uframe = s.uframe := rfl
@[simp] theorem State.acceptSample_bauddiv (s : State) (c : BitVec 3) : (s.acceptSample c).bauddiv = s.bauddiv := rfl
@[simp] theorem State.acceptSample_ustat (s : State) (c : BitVec 3) : (s.acceptSample c).ustat = s.ustat := rfl
@[simp] theorem State.acceptSample_txdata (s : State) (c : BitVec 3) : (s.acceptSample c).txdata = s.txdata := rfl
@[simp] theorem State.acceptSample_gie (s : State) (c : BitVec 3) : (s.acceptSample c).gie = s.gie := rfl
@[simp] theorem State.acceptSample_next (s : State) (c : BitVec 3) : (s.acceptSample c).next = s.next := rfl
@[simp] theorem State.acceptSample_byte (s : State) (c : BitVec 3) : (s.acceptSample c).byte = s.byte := rfl
@[simp] theorem State.acceptSample_ptr (s : State) (c : BitVec 3) : (s.acceptSample c).ptr = s.ptr := rfl
@[simp] theorem State.acceptSample_result (s : State) (c : BitVec 3) : (s.acceptSample c).result = s.result := rfl
@[simp] theorem State.acceptSample_arg (s : State) (c : BitVec 3) : (s.acceptSample c).arg = c.setWidth 16 := rfl
@[simp] theorem State.acceptSample_fgpc (s : State) (c : BitVec 3) : (s.acceptSample c).fgpc = .smp .s0 := rfl
@[simp] theorem State.acceptSample_instr (s : State) (c : BitVec 3) : (s.acceptSample c).instr = s.instr := rfl
@[simp] theorem State.acceptSample_amux (s : State) (c : BitVec 3) : (s.acceptSample c).amux = s.amux := rfl
@[simp] theorem State.acceptSample_actrl (s : State) (c : BitVec 3) : (s.acceptSample c).actrl = s.actrl := rfl
@[simp] theorem State.acceptSample_adata (s : State) (c : BitVec 3) : (s.acceptSample c).adata = s.adata := rfl
@[simp] theorem State.acceptSample_dout (s : State) (c : BitVec 3) : (s.acceptSample c).dout = s.dout := rfl
@[simp] theorem State.acceptSample_txlog (s : State) (c : BitVec 3) : (s.acceptSample c).txlog = s.txlog := rfl
@[simp] theorem State.acceptSample_wire (s : State) (c : BitVec 3) : (s.acceptSample c).wire = s.wire := rfl
@[simp] theorem State.acceptSample_str (s : State) (c : BitVec 3) : (s.acceptSample c).str = s.str := rfl
@[simp] theorem State.acceptSample_hostpc (s : State) (c : BitVec 3) : (s.acceptSample c).hostpc = s.hostpc := rfl
@[simp] theorem State.acceptSample_script (s : State) (c : BitVec 3) : (s.acceptSample c).script = s.script := rfl
@[simp] theorem State.acceptSample_draws (s : State) (c : BitVec 3) : (s.acceptSample c).draws = s.draws := rfl

@[simp] theorem State.reportDecide_buf (s : State) : s.reportDecide.buf = s.buf := rfl
@[simp] theorem State.reportDecide_head (s : State) : s.reportDecide.head = s.head := rfl
@[simp] theorem State.reportDecide_tail (s : State) : s.reportDecide.tail = s.tail := rfl
@[simp] theorem State.reportDecide_uctrl (s : State) : s.reportDecide.uctrl = s.uctrl := rfl
@[simp] theorem State.reportDecide_uframe (s : State) : s.reportDecide.uframe = s.uframe := rfl
@[simp] theorem State.reportDecide_bauddiv (s : State) : s.reportDecide.bauddiv = s.bauddiv := rfl
@[simp] theorem State.reportDecide_ustat (s : State) : s.reportDecide.ustat = s.ustat := rfl
@[simp] theorem State.reportDecide_txdata (s : State) : s.reportDecide.txdata = s.txdata := rfl
@[simp] theorem State.reportDecide_gie (s : State) : s.reportDecide.gie = s.gie := rfl
@[simp] theorem State.reportDecide_next (s : State) : s.reportDecide.next = s.next := rfl
@[simp] theorem State.reportDecide_byte (s : State) : s.reportDecide.byte = s.byte := rfl
@[simp] theorem State.reportDecide_ptr (s : State) : s.reportDecide.ptr = s.ptr := rfl
@[simp] theorem State.reportDecide_result (s : State) : s.reportDecide.result = s.result := rfl
@[simp] theorem State.reportDecide_arg (s : State) : s.reportDecide.arg = s.arg := rfl
@[simp] theorem State.reportDecide_fgpc (s : State) : s.reportDecide.fgpc = s.fgpc := rfl
@[simp] theorem State.reportDecide_instr (s : State) : s.reportDecide.instr = s.instr := rfl
@[simp] theorem State.reportDecide_amux (s : State) : s.reportDecide.amux = s.amux := rfl
@[simp] theorem State.reportDecide_actrl (s : State) : s.reportDecide.actrl = s.actrl := rfl
@[simp] theorem State.reportDecide_adata (s : State) : s.reportDecide.adata = s.adata := rfl
@[simp] theorem State.reportDecide_dout (s : State) : s.reportDecide.dout = decide (Config.threshold < s.result.toNat) := rfl
@[simp] theorem State.reportDecide_txlog (s : State) : s.reportDecide.txlog = s.txlog := rfl
@[simp] theorem State.reportDecide_wire (s : State) : s.reportDecide.wire = s.wire := rfl
@[simp] theorem State.reportDecide_str (s : State) : s.reportDecide.str = s.str := rfl
@[simp] theorem State.reportDecide_hostpc (s : State) : s.reportDecide.hostpc = HostPc.ofRest (reportBytes s.result.toNat) := rfl
@[simp] theorem State.reportDecide_script (s : State) : s.reportDecide.script = s.script := rfl
@[simp] theorem State.reportDecide_draws (s : State) : s.reportDecide.draws = s.draws := rfl

end Sys2Proof.Machine
end

