-- ==== Sys2Proof/Laws/Fields.lean ====
section
/-! SUPPORT. Reading a flag or a field after writing one: the written one reads back, the others keep their value. -/

namespace Sys2Proof.Machine

theorem flagOf_withFlag_same (m r : Byte) (b : Bool) (h : m ≠ 0) : flagOf m (withFlag m r b) = b := by
  have on : (r ||| m) &&& m = m := by ext i hi; simp; intro h; simp [h]
  have off : (r &&& ~~~m) &&& m = 0 := by ext i hi; simp
  cases b with
  | true => simpa [flagOf, withFlag, on] using h
  | false => simp [flagOf, withFlag, off]

/-- A bit outside the written flag keeps its value: `n` names bits that `m` does not. -/
theorem and_withFlag_other (m n r : Byte) (b : Bool) (h : m &&& n = 0) : withFlag m r b &&& n = r &&& n := by
  have h' : ∀ i (hi : i < 8), m[i] = true → n[i] = false := by
    intro i hi hm
    have := congrArg (fun x : Byte => x[i]) h
    simpa [hm] using this
  cases b with
  | true =>
    ext i hi
    simp only [withFlag, if_true, BitVec.getElem_and, BitVec.getElem_or]
    cases hm : m[i] <;> simp_all
  | false =>
    ext i hi
    simp only [withFlag, Bool.false_eq_true, if_false, BitVec.getElem_and, BitVec.getElem_not]
    cases hm : m[i] <;> simp_all

theorem flagOf_withFlag_other (m n r : Byte) (b : Bool) (h : m &&& n = 0) :
    flagOf n (withFlag m r b) = flagOf n r := by
  simp [flagOf, and_withFlag_other m n r b h]

theorem and_withField_other (m n r v : Byte) (h : m &&& n = 0) : withField m r v &&& n = r &&& n := by
  have h' : ∀ i (hi : i < 8), m[i] = true → n[i] = false := by
    intro i hi hm
    have := congrArg (fun x : Byte => x[i]) h
    simpa [hm] using this
  ext i hi
  simp only [withField, BitVec.getElem_and, BitVec.getElem_or, BitVec.getElem_not]
  cases hm : m[i] <;> simp_all

theorem flagOf_withField_other (m n r v : Byte) (h : m &&& n = 0) :
    flagOf n (withField m r v) = flagOf n r := by
  simp [flagOf, and_withField_other m n r v h]

@[simp] theorem State.setUdrie_udrie (s : State) (b : Bool) : (s.setUdrie b).udrie = b :=
  flagOf_withFlag_same _ _ _ (by decide)

@[simp] theorem State.setUdrie_txen (s : State) (b : Bool) : (s.setUdrie b).txen = s.txen :=
  flagOf_withFlag_other _ _ _ _ (by decide)

@[simp] theorem State.setUdrie_rxen (s : State) (b : Bool) : (s.setUdrie b).rxen = s.rxen :=
  flagOf_withFlag_other _ _ _ _ (by decide)

@[simp] theorem State.setTxen_txen (s : State) (b : Bool) : (s.setTxen b).txen = b :=
  flagOf_withFlag_same _ _ _ (by decide)

@[simp] theorem State.setTxen_udrie (s : State) (b : Bool) : (s.setTxen b).udrie = s.udrie :=
  flagOf_withFlag_other _ _ _ _ (by decide)

@[simp] theorem State.setUdre_udre (s : State) (b : Bool) : (s.setUdre b).udre = b :=
  flagOf_withFlag_same _ _ _ (by decide)

@[simp] theorem State.writeTxdata_udre (s : State) (b : Byte) : (s.writeTxdata b).udre = false :=
  flagOf_withFlag_same _ _ _ (by decide)

@[simp] theorem State.byteSent_udre (s : State) : s.byteSent.udre = true :=
  flagOf_withFlag_same _ _ _ (by decide)

@[simp] theorem State.setAden_aden (s : State) (b : Bool) : (s.setAden b).aden = b :=
  flagOf_withFlag_same _ _ _ (by decide)

@[simp] theorem State.setAden_adsc (s : State) (b : Bool) : (s.setAden b).adsc = s.adsc :=
  flagOf_withFlag_other _ _ _ _ (by decide)

@[simp] theorem State.setAdsc_adsc (s : State) (b : Bool) : (s.setAdsc b).adsc = b :=
  flagOf_withFlag_same _ _ _ (by decide)

@[simp] theorem State.setAdsc_aden (s : State) (b : Bool) : (s.setAdsc b).aden = s.aden :=
  flagOf_withFlag_other _ _ _ _ (by decide)

@[simp] theorem State.setAdps_adsc (s : State) (c : BitVec 3) : (s.setAdps c).adsc = s.adsc :=
  flagOf_withField_other _ _ _ _ (by decide)

@[simp] theorem State.setAdps_aden (s : State) (c : BitVec 3) : (s.setAdps c).aden = s.aden :=
  flagOf_withField_other _ _ _ _ (by decide)

@[simp] theorem State.conversionDone_adsc (s : State) (v : Sample) : (s.conversionDone v).adsc = false :=
  flagOf_withFlag_same _ _ _ (by decide)

@[simp] theorem State.conversionDone_aden (s : State) (v : Sample) : (s.conversionDone v).aden = s.aden :=
  flagOf_withFlag_other _ _ _ _ (by decide)

theorem State.setRefs_refs (s : State) (r : BitVec 2) : (s.setRefs r).refs = r := by
  have h : ∀ a : Byte, (withField refsMask a (r.setWidth 8 <<< 6)).extractLsb' 6 2 = r := by
    revert r; decide +revert
  exact h s.amux

theorem State.setChsel_chsel (s : State) (c : BitVec 3) : (s.setChsel c).chsel = c := by
  have h : ∀ a : Byte, (withField chselMask a (c.setWidth 8)).extractLsb' 0 3 = c := by
    revert c; decide +revert
  exact h s.amux

/-- A field write whose new value lies in the field's place clears the field and puts the value there. -/
theorem withField_of_fits (m r v : Byte) (h : v &&& m = v) : withField m r v = (r &&& ~~~m) ||| v := by
  rw [withField, h]

/-- `AMUX.REFS <- r` as one expression on the register. -/
theorem State.setRefs_amux_eq (s : State) (r : BitVec 2) :
    (s.setRefs r).amux = (s.amux &&& 0x3F) ||| (r.setWidth 8 <<< 6) :=
  withField_of_fits _ _ _ (by revert r; decide)

/-- `AMUX.CHSEL <- c` as one expression on the register. -/
theorem State.setChsel_amux_eq (s : State) (c : BitVec 3) :
    (s.setChsel c).amux = (s.amux &&& 0xF8) ||| c.setWidth 8 :=
  withField_of_fits _ _ _ (by revert c; decide)

/-- `ACTRL.ADPS <- c` as one expression on the register. -/
theorem State.setAdps_actrl_eq (s : State) (c : BitVec 3) :
    (s.setAdps c).actrl = (s.actrl &&& 0xF8) ||| c.setWidth 8 :=
  withField_of_fits _ _ _ (by revert c; decide)

/-- Selecting a channel keeps the reference bits. -/
theorem State.setChsel_refs (s : State) (c : BitVec 3) : (s.setChsel c).refs = s.refs := by
  rw [State.refs, State.setChsel_amux_eq, State.refs]
  generalize s.amux = a
  revert c
  decide +revert

/-- Writing the reference bits keeps the channel. -/
theorem State.setRefs_chsel (s : State) (r : BitVec 2) : (s.setRefs r).chsel = s.chsel := by
  rw [State.chsel, State.setRefs_amux_eq, State.chsel]
  generalize s.amux = a
  revert r
  decide +revert

/-- The prescaler code reads back. -/
theorem State.setAdps_adps (s : State) (c : BitVec 3) : (s.setAdps c).adps = c := by
  rw [State.adps, State.setAdps_actrl_eq]
  generalize s.actrl = a
  revert c
  decide +revert

end Sys2Proof.Machine
end

