-- ==== Sys2Proof/Laws/Ring.lean ====
section
/-! SUPPORT. The ring buffer's arithmetic and its two accesses. -/

namespace Sys2Proof.Machine

/-- The increment as a number, for a buffer an 8-bit index reaches (00_scope.md R14). -/
theorem incMod_toNat {n : Nat} (h0 : 0 < n) (h : n ≤ 256) (i : Byte) : (incMod n i).toNat = (i.toNat + 1) % n := by
  have := Nat.mod_lt (i.toNat + 1) h0
  rw [incMod, BitVec.toNat_ofNat, Nat.mod_eq_of_lt (by omega)]

theorem incMod_lt {n : Nat} (h0 : 0 < n) (h : n ≤ 256) (i : Byte) : (incMod n i).toNat < n := by
  rw [incMod_toNat h0 h]; exact Nat.mod_lt _ h0

/-- With at least two slots an index never is its own successor. -/
theorem incMod_ne {n : Nat} (h0 : 2 ≤ n) (h : n ≤ 256) {i : Byte} (hi : i.toNat < n) : incMod n i ≠ i := by
  intro he
  have := congrArg BitVec.toNat he
  rw [incMod_toNat (by omega) h] at this
  by_cases hlast : i.toNat + 1 = n
  · rw [hlast, Nat.mod_self] at this; omega
  · rw [Nat.mod_eq_of_lt (by omega)] at this; omega

/-- The increment is injective on the indices of the buffer. -/
theorem incMod_inj {n : Nat} (h0 : 0 < n) (h : n ≤ 256) {i j : Byte} (hi : i.toNat < n) (hj : j.toNat < n)
    (he : incMod n i = incMod n j) : i = j := by
  have hm := congrArg BitVec.toNat he
  rw [incMod_toNat h0 h, incMod_toNat h0 h] at hm
  apply BitVec.eq_of_toNat_eq
  by_cases h1 : i.toNat + 1 = n <;> by_cases h2 : j.toNat + 1 = n
  · omega
  · rw [h1, Nat.mod_self, Nat.mod_eq_of_lt (by omega)] at hm; omega
  · rw [h2, Nat.mod_self, Nat.mod_eq_of_lt (by omega)] at hm; omega
  · rw [Nat.mod_eq_of_lt (by omega), Nat.mod_eq_of_lt (by omega)] at hm; omega

/-- Everything a slot write can do: it succeeds exactly on a slot of the buffer and changes that slot only. -/
theorem State.writeSlot_eq_some {s t : State} {i v : Byte} (h : s.writeSlot i v = some t) :
    i.toNat < s.rbN ∧ t = { s with buf := s.buf.set i.toNat v } := by
  unfold State.writeSlot at h
  split at h
  · exact ⟨‹_›, by simpa using h.symm⟩
  · cases h

theorem State.writeSlot_of_lt {s : State} {i : Byte} (v : Byte) (h : i.toNat < s.rbN) :
    s.writeSlot i v = some { s with buf := s.buf.set i.toNat v } := if_pos h

/-- There is no slot beyond the buffer to write. -/
theorem State.writeSlot_of_ge {s : State} {i : Byte} (v : Byte) (h : s.buf.length ≤ i.toNat) :
    s.writeSlot i v = none := if_neg (Nat.not_lt.2 h)

/-- A slot of the buffer can be read. -/
theorem State.readSlot_of_lt {s : State} {i : Byte} (h : i.toNat < s.rbN) :
    s.readSlot i = some (s.buf[i.toNat]'h) := List.getElem?_eq_getElem h

end Sys2Proof.Machine
end

