-- ==== Sys2Proof/Laws/Exec.lean ====
section
/-! SUPPORT. One inversion lemma per meaning and shared operation: if it answers a next state, then one of these cases
holds. The provers cite these instead of unfolding the meanings. -/

namespace Sys2Proof.Machine

theorem enqueueStep_next {k : EnqLabel} {s t : State} (h : enqueueStep k s = .next t) :
    (k = .p0 ∧ t = { s with next := incMod s.rbN s.head, fgpc := .enq .p1 }) ∨
    (k = .p1 ∧ s.next = s.tail ∧ t = s) ∨
    (k = .p1 ∧ s.next ≠ s.tail ∧ t = s.goto (.enq .p2)) ∨
    (k = .p2 ∧ s.next.toNat < s.rbN ∧
      t = { s with buf := s.buf.set s.next.toNat s.byte, fgpc := .enq .p3 }) ∨
    (k = .p3 ∧ t = { s with head := s.next, fgpc := .enq .p4 }) ∨
    (k = .p4 ∧ t = (s.setUdrie true).goto (if s.instr then .str .t2 else .idle)) := by
  cases k with
  | p0 => exact .inl ⟨rfl, by simpa [enqueueStep] using h.symm⟩
  | p1 =>
    simp only [enqueueStep] at h
    split at h
    · exact .inr (.inl ⟨rfl, ‹_›, by simpa using h.symm⟩)
    · exact .inr (.inr (.inl ⟨rfl, ‹_›, by simpa using h.symm⟩))
  | p2 =>
    simp only [enqueueStep] at h
    split at h
    · obtain ⟨hlt, rfl⟩ := State.writeSlot_eq_some ‹_›
      exact .inr (.inr (.inr (.inl ⟨rfl, hlt, by simpa [State.goto] using h.symm⟩)))
    · cases h
  | p3 => exact .inr (.inr (.inr (.inr (.inl ⟨rfl, by simpa [enqueueStep] using h.symm⟩))))
  | p4 => exact .inr (.inr (.inr (.inr (.inr ⟨rfl, by simpa [enqueueStep] using h.symm⟩))))

theorem drainAction_next {s t : State} (h : s.drainAction = .next t) :
    (s.head = s.tail ∧ t = s.setUdrie false) ∨
    (s.head ≠ s.tail ∧ ∃ b, s.readSlot (incMod s.rbN s.tail) = some b ∧
      t = { s with tail := incMod s.rbN s.tail }.writeTxdata b) := by
  unfold State.drainAction at h
  split at h
  · rename_i he
    exact .inl ⟨by simpa [State.isEmpty] using he, by simpa using h.symm⟩
  · rename_i he
    split at h
    · rename_i b hb
      exact .inr ⟨by simpa [State.isEmpty] using he, b, hb, by simpa using h.symm⟩
    · cases h

theorem execTxinit_next {bd : BitVec 12} {s t : State} (h : execTxinit bd s = .next t) :
    (s.fgpc = .idle ∧ t = s.latch (bd.setWidth 16) (.init .i0)) ∨
    (∃ k, s.fgpc = .init k ∧ s.inProgress = some (.txinit bd) ∧ t = initStep k s) := by
  unfold execTxinit at h
  split at h
  · exact .inl ⟨‹_›, by simpa using h.symm⟩
  · rename_i k hk
    split at h
    · exact .inr ⟨k, hk, ‹_›, by simpa using h.symm⟩
    · cases h
  · cases h

theorem execTxput_next {b : Byte} {s t : State} (h : execTxput b s = .next t) :
    (s.fgpc = .idle ∧ s.txReady = true ∧ t = s.acceptPut b) ∨
    (∃ k, s.fgpc = .enq k ∧ s.inProgress = some (.txput b) ∧ enqueueStep k s = .next t) := by
  unfold execTxput at h
  split at h
  · split at h
    · exact .inl ⟨‹_›, ‹_›, by simpa using h.symm⟩
    · cases h
  · rename_i k hk
    split at h
    · exact .inr ⟨k, hk, ‹_›, h⟩
    · cases h
  · cases h

theorem execTxputs_next {p : Half} {s t : State} (h : execTxputs p s = .next t) :
    (s.fgpc = .idle ∧ s.txReady = true ∧ s.str.terminated p = true ∧
      t = { s.latch p (.str .t0) with instr := true }) ∨
    (∃ k, s.fgpc = .enq k ∧ s.inProgress = some (.txputs p) ∧ enqueueStep k s = .next t) ∨
    (∃ k, s.fgpc = .str k ∧ s.inProgress = some (.txputs p) ∧ t = stringStep k s) := by
  unfold execTxputs at h
  split at h
  · split at h
    · cases h
    · split at h
      · exact .inl ⟨‹_›, by simp_all, ‹_›, by simpa using h.symm⟩
      · cases h
  · rename_i k hk
    split at h
    · exact .inr (.inl ⟨k, hk, ‹_›, h⟩)
    · cases h
  · rename_i k hk
    split at h
    · exact .inr (.inr ⟨k, hk, ‹_›, by simpa using h.symm⟩)
    · cases h
  · cases h

theorem execAdccfg_next {df : Byte} {s t : State} (h : execAdccfg df s = .next t) :
    ∃ code, psCode df = some code ∧
      ((s.fgpc = .idle ∧ t = s.latch (df.setWidth 16) (.cfg .c0)) ∨
       (∃ k, s.fgpc = .cfg k ∧ s.inProgress = some (.adccfg df) ∧ t = configStep code k s)) := by
  unfold execAdccfg at h
  split at h
  · split at h
    · rename_i code hc
      exact ⟨code, hc, .inl ⟨‹_›, by simpa using h.symm⟩⟩
    · cases h
  · rename_i k hk
    split at h
    · split at h
      · rename_i code hc
        exact ⟨code, hc, .inr ⟨k, hk, ‹_›, by simpa using h.symm⟩⟩
      · cases h
    · cases h
  · cases h

theorem execAdcsample_next {ch : BitVec 3} {s t : State} (h : execAdcsample ch s = .next t) :
    (s.fgpc = .idle ∧ s.adcReady = true ∧ t = s.acceptSample ch) ∨
    (∃ k, s.fgpc = .smp k ∧ s.inProgress = some (.adcsample ch) ∧ t = sampleStep k s) := by
  unfold execAdcsample at h
  split at h
  · split at h
    · exact .inl ⟨‹_›, ‹_›, by simpa using h.symm⟩
    · cases h
  · rename_i k hk
    split at h
    · exact .inr ⟨k, hk, ‹_›, by simpa using h.symm⟩
    · cases h
  · cases h

theorem execDrain_next {s t : State} (h : execDrain s = .next t) :
    s.drainEnabled = true ∧ s.drainAction = .next t := by
  unfold execDrain at h
  split at h
  · exact ⟨‹_›, h⟩
  · cases h

theorem execTxSent_next {s t : State} (h : execTxSent s = .next t) :
    s.txSentEnabled = true ∧ t = s.byteSent := by
  unfold execTxSent at h
  split at h
  · exact ⟨‹_›, by simpa using h.symm⟩
  · cases h

theorem execAdcDone_next {v : Sample} {s t : State} (h : execAdcDone v s = .next t) :
    s.adcDoneEnabled = true ∧ t = s.conversionDone v := by
  unfold execAdcDone at h
  split at h
  · exact ⟨‹_›, by simpa using h.symm⟩
  · cases h

theorem execReport_next {s t : State} (h : execReport s = .next t) :
    s.fgpc = .idle ∧
    ((s.hostpc = .idle ∧ s.adcReady = true ∧ s.txReady = true ∧
        t = { s.acceptSample Config.reportCh with hostpc := .sampling }) ∨
     (s.hostpc = .sampling ∧ t = s.reportDecide) ∨
     (∃ c rest, s.hostpc = .sending c rest ∧ s.txReady = true ∧
        t = { s.acceptPut c with hostpc := HostPc.ofRest rest })) := by
  unfold execReport at h
  split at h
  · refine ⟨‹_›, ?_⟩
    split at h
    · split at h
      · cases h
      · split at h
        · cases h
        · exact .inl ⟨‹_›, by simp_all, by simp_all, by simpa using h.symm⟩
    · exact .inr (.inl ⟨‹_›, by simpa using h.symm⟩)
    · rename_i c rest hh
      split at h
      · exact .inr (.inr ⟨c, rest, hh, ‹_›, by simpa using h.symm⟩)
      · cases h
  · cases h

/-- The command in progress is the one whose micro-step stands at `FGPC`. -/
theorem State.inProgress_eq_none {s : State} : s.inProgress = none ↔ s.fgpc = .idle := by
  unfold State.inProgress
  cases s.fgpc <;> simp
  split <;> simp

end Sys2Proof.Machine
end

