-- ==== Sys2Proof/Laws/Memory.lean ====
section
/-! SUPPORT. The laws of `STR`: read after write, the canonical form is kept, and what `terminated` says. -/

namespace Sys2Proof.Machine

theorem Memory.wfFrom_mono {m : Memory} {lo lo' : Nat} (h : Memory.wfFrom lo m = true) (hle : lo' ≤ lo) :
    Memory.wfFrom lo' m = true := by
  cases m with
  | nil => rfl
  | cons e m =>
    simp only [Memory.wfFrom, Bool.and_eq_true, decide_eq_true_eq] at h ⊢
    exact ⟨⟨⟨by omega, h.1.1.2⟩, h.1.2⟩, h.2⟩

/-- Nothing is listed below the bound of the canonical form. -/
theorem Memory.read_below {m : Memory} {lo a : Nat} (h : Memory.wfFrom lo m = true) (ha : a < lo) :
    m.read a = Config.unlistedByte := by
  induction m generalizing lo with
  | nil => rfl
  | cons e m ih =>
    obtain ⟨c, v⟩ := e
    simp only [Memory.wfFrom, Bool.and_eq_true, decide_eq_true_eq] at h
    simp only [Memory.read, if_neg (show a ≠ c by omega)]
    exact ih h.2 (by omega)

theorem Memory.read_write_same {m : Memory} {lo : Nat} (h : Memory.wfFrom lo m = true) (a : Nat) (v : Byte) :
    (m.write a v).read a = v := by
  induction m generalizing lo with
  | nil => by_cases hv : v = Config.unlistedByte <;> simp [Memory.write, Memory.read, hv]
  | cons e m ih =>
    obtain ⟨c, u⟩ := e
    simp only [Memory.wfFrom, Bool.and_eq_true, decide_eq_true_eq] at h
    by_cases hlt : a < c
    · by_cases hv : v = Config.unlistedByte
      · simp [Memory.write, Memory.read, hlt, hv, show a ≠ c by omega, Memory.read_below h.2 (a := a) (by omega)]
      · simp [Memory.write, Memory.read, hlt, hv]
    · by_cases heq : a = c
      · by_cases hv : v = Config.unlistedByte
        · simp [Memory.write, heq, hv, Memory.read_below h.2 (a := c) (by omega)]
        · simp [Memory.write, Memory.read, heq, hv]
      · simpa [Memory.write, Memory.read, hlt, heq] using ih h.2

theorem Memory.read_write_other (m : Memory) (a b : Nat) (v : Byte) (hne : b ≠ a) :
    (m.write a v).read b = m.read b := by
  induction m with
  | nil => by_cases hv : v = Config.unlistedByte <;> simp [Memory.write, Memory.read, hv, hne]
  | cons e m ih =>
    obtain ⟨c, u⟩ := e
    by_cases hlt : a < c
    · by_cases hv : v = Config.unlistedByte <;> simp [Memory.write, Memory.read, hlt, hv, hne]
    · by_cases heq : a = c
      · subst heq
        by_cases hv : v = Config.unlistedByte <;> simp [Memory.write, Memory.read, hv, hne]
      · simp [Memory.write, Memory.read, hlt, heq, ih]

theorem Memory.wfFrom_write {m : Memory} {lo a : Nat} (h : Memory.wfFrom lo m = true) (v : Byte) (hlo : lo ≤ a)
    (ha : a < 2 ^ 16) : Memory.wfFrom lo (m.write a v) = true := by
  induction m generalizing lo with
  | nil =>
    by_cases hv : v = Config.unlistedByte
    · simp [Memory.write, hv, Memory.wfFrom]
    · simp [Memory.write, hv, Memory.wfFrom, hlo]; omega
  | cons e m ih =>
    obtain ⟨c, u⟩ := e
    have h0 := h
    simp only [Memory.wfFrom, Bool.and_eq_true, decide_eq_true_eq] at h
    obtain ⟨⟨⟨hc, hc16⟩, hu⟩, hm⟩ := h
    by_cases hlt : a < c
    · by_cases hv : v = Config.unlistedByte
      · simpa [Memory.write, hlt, hv] using h0
      · simp only [Memory.write, if_pos hlt, if_neg hv, Memory.wfFrom, Bool.and_eq_true, decide_eq_true_eq]
        exact ⟨⟨⟨hlo, ha⟩, by simpa using hv⟩, ⟨⟨by omega, hc16⟩, hu⟩, hm⟩
    · by_cases heq : a = c
      · subst heq
        by_cases hv : v = Config.unlistedByte
        · simpa [Memory.write, hv] using Memory.wfFrom_mono hm (by omega)
        · simp only [Memory.write, if_neg hlt, if_true, if_neg hv, Memory.wfFrom, Bool.and_eq_true, decide_eq_true_eq]
          exact ⟨⟨⟨hlo, ha⟩, by simpa using hv⟩, hm⟩
      · simp only [Memory.write, if_neg hlt, if_neg heq, Memory.wfFrom, Bool.and_eq_true, decide_eq_true_eq]
        exact ⟨⟨⟨hc, hc16⟩, hu⟩, ih hm (by omega)⟩

/-- A write keeps the canonical form. -/
theorem Memory.wf_write {m : Memory} (h : m.wf = true) (a : Half) (v : Byte) : (m.write a.toNat v).wf = true :=
  Memory.wfFrom_write h v (Nat.zero_le _) a.isLt

/-- Placing a string keeps the canonical form. -/
theorem Memory.wf_placeString {m : Memory} (h : m.wf = true) (a : Half) (bs : List Byte) :
    (m.placeString a bs).wf = true := by
  induction bs generalizing m a with
  | nil => exact Memory.wf_write h a 0
  | cons b bs ih => exact ih (Memory.wf_write h a b) (a + 1)

theorem Memory.zeroWithin_iff (m : Memory) (n a : Nat) :
    m.zeroWithin n a = true ↔ ∃ k, k < n ∧ m.read (a + k) = 0 := by
  induction n generalizing a with
  | zero => simp [Memory.zeroWithin]
  | succ n ih =>
    simp only [Memory.zeroWithin, Bool.or_eq_true, beq_iff_eq, ih]
    constructor
    · rintro (h | ⟨k, hk, hr⟩)
      · exact ⟨0, by omega, h⟩
      · exact ⟨k + 1, by omega, by rwa [show a + (k + 1) = a + 1 + k by omega]⟩
    · rintro ⟨k, hk, hr⟩
      cases k with
      | zero => exact .inl hr
      | succ k => exact .inr ⟨k, by omega, by rwa [show a + 1 + k = a + (k + 1) by omega]⟩

/-- `terminated` says that a zero byte lies from `p` to the last address. -/
theorem Memory.terminated_iff (m : Memory) (p : Half) :
    m.terminated p = true ↔ ∃ a, p.toNat ≤ a ∧ a < 2 ^ 16 ∧ m.read a = 0 := by
  rw [Memory.terminated, Memory.zeroWithin_iff]
  constructor
  · rintro ⟨k, hk, hr⟩
    exact ⟨p.toNat + k, by omega, by omega, hr⟩
  · rintro ⟨a, hle, hlt, hr⟩
    exact ⟨a - p.toNat, by omega, by rwa [show p.toNat + (a - p.toNat) = a by omega]⟩

/-- A terminated string whose first byte is not the terminator does not stand at the last address and is terminated
from the next address on. -/
theorem Memory.terminated_tail {m : Memory} {p : Half} (h : m.terminated p = true) (hne : m.read p.toNat ≠ 0) :
    p.toNat + 1 < 2 ^ 16 ∧ m.terminated (p + 1) = true := by
  obtain ⟨a, hle, hlt, hr⟩ := (Memory.terminated_iff m p).1 h
  have hpa : p.toNat ≠ a := by rintro rfl; exact hne hr
  refine ⟨by omega, (Memory.terminated_iff m (p + 1)).2 ⟨a, ?_, hlt, hr⟩⟩
  rw [BitVec.toNat_add]
  show (p.toNat + 1) % 2 ^ 16 ≤ a
  omega

theorem Memory.zeroWithin_eq_false {m : Memory} {n a : Nat} :
    m.zeroWithin n a = false ↔ ∀ k, k < n → m.read (a + k) ≠ 0 := by
  rw [← Bool.not_eq_true, Memory.zeroWithin_iff]
  exact ⟨fun h k hk hr => h ⟨k, hk, hr⟩, fun h ⟨k, hk, hr⟩ => h k hk hr⟩

/-- The addresses of the string at `p`: from `p` on, up to the first zero byte and that byte. -/
theorem Memory.inString_iff {m : Memory} {p a : Nat} :
    m.inString p a = true ↔ p ≤ a ∧ ∀ b, p ≤ b → b < a → m.read b ≠ 0 := by
  simp only [Memory.inString, Bool.and_eq_true, decide_eq_true_eq, Bool.not_eq_true', Memory.zeroWithin_eq_false]
  refine and_congr_right fun hle => ⟨fun h b hb hba => ?_, fun h k hk => h (p + k) (by omega) (by omega)⟩
  have := h (b - p) (by omega)
  rwa [show p + (b - p) = b by omega] at this

/-- A write outside the string at `p` changes no byte of it. -/
theorem Memory.read_write_inString {m : Memory} {p a b : Nat} (v : Byte) (ha : m.inString p a = false)
    (hb : m.inString p b = true) : (m.write a v).read b = m.read b :=
  Memory.read_write_other m a b v fun h => by rw [h, ha] at hb; cases hb

end Sys2Proof.Machine
end

