-- ==== Sys2Proof/Laws/Pending.lean ====
section
/-! SUPPORT. The pending sequence of the ring buffer: what a commit and an emission do to it. The string of the running
`TXPUTS`: what a read of it and a write beside it do to it. -/

namespace Sys2Proof.Safety

open Sys2Proof.Machine

/-- There are `COUNT` pending bytes. -/
@[simp] theorem pending_length (s : State) : (pending s).length = count s := by simp [pending]

/-- `COUNT` without the modulus, for indices in range (44_common_semantics.md R221). -/
theorem count_eq {s : State} (hh : s.head.toNat < s.rbN) (ht : s.tail.toNat < s.rbN) :
    count s = if s.tail.toNat ≤ s.head.toNat then s.head.toNat - s.tail.toNat
      else s.head.toNat + s.rbN - s.tail.toNat := by
  unfold count
  split
  · rw [Int.emod_eq_of_lt (by omega) (by omega)]; omega
  · have : ((s.head.toNat : Int) - s.tail.toNat) % s.rbN = (s.head.toNat : Int) - s.tail.toNat + s.rbN := by
      rw [← Int.add_emod_right, Int.emod_eq_of_lt (by omega) (by omega)]
    omega

/-- The index increment without the modulus. -/
theorem incMod_cases {n : Nat} (h0 : 0 < n) (h : n ≤ 256) {i : Byte} (hi : i.toNat < n) :
    (incMod n i).toNat = if i.toNat + 1 = n then 0 else i.toNat + 1 := by
  rw [incMod_toNat h0 h]
  split
  · rename_i he; rw [he, Nat.mod_self]
  · exact Nat.mod_eq_of_lt (by omega)

/-- The pending sequence depends on `BUF`, `HEAD` and `TAIL` only. -/
theorem pending_congr {s t : State} (hb : t.buf = s.buf) (hh : t.head = s.head) (ht : t.tail = s.tail) :
    pending t = pending s := by
  simp [pending, count, pendingSlot, State.rbN, hb, hh, ht]

/-- The slot where the pending sequence ends is the one `HEAD` names. -/
theorem pendingSlot_last {s : State} (hh : s.head.toNat < s.rbN) (ht : s.tail.toNat < s.rbN) (hc : 0 < count s) :
    pendingSlot s (count s - 1) = s.head.toNat := by
  have he := count_eq hh ht
  unfold pendingSlot
  split at he
  · rw [Nat.mod_eq_of_lt (by omega)]; omega
  · rw [show s.tail.toNat + (count s - 1) + 1 = s.head.toNat + s.rbN by omega, Nat.add_mod_right]
    exact Nat.mod_eq_of_lt hh

/-- Committing the next head slot appends its byte to the pending sequence. -/
theorem pending_commit {s : State} (hi : RingInv s) (hn : s.next = incMod s.rbN s.head) (hr : s.next ≠ s.tail) (l : Fgpc) :
    pending { s with head := s.next, fgpc := l } = pending s ++ [s.buf.getD s.next.toNat 0] := by
  have h0 : 0 < s.rbN := by have := hi.size.1; omega
  have hnx := incMod_cases h0 hi.size.2 hi.head
  have hlt := incMod_lt h0 hi.size.2 s.head
  rw [← hn] at hnx hlt
  have hne : s.next.toNat ≠ s.tail.toNat := fun h => hr (BitVec.eq_of_toNat_eq h)
  let t : State := { s with head := s.next, fgpc := l }
  have hc : count t = count s + 1 := by
    have ht := count_eq (s := t) hlt hi.tail
    have hs := count_eq hi.head hi.tail
    have hht := hi.head
    have htt := hi.tail
    rw [ht, hs]
    show (if s.tail.toNat ≤ s.next.toNat then s.next.toNat - s.tail.toNat else s.next.toNat + s.rbN - s.tail.toNat) = _
    split at hnx <;> split <;> split <;> omega
  have hlast := pendingSlot_last (s := t) hlt hi.tail (by omega)
  rw [hc, Nat.add_sub_cancel] at hlast
  show (List.range (count t)).map (fun k => s.buf.getD (pendingSlot s k) 0) = _
  rw [hc, List.range_succ, List.map_append]
  show _ ++ [s.buf.getD (pendingSlot t (count s)) 0] = _
  rw [hlast]
  rfl

/-- Writing the slot after `HEAD` of a buffer with room changes no pending byte. -/
theorem pending_setSlot {s : State} (hr : RingInv s) (hroom : incMod s.rbN s.head ≠ s.tail) (b : Byte) :
    pending { s with buf := s.buf.set (incMod s.rbN s.head).toNat b } = pending s := by
  have h0 := hr.size
  have hc : count { s with buf := s.buf.set (incMod s.rbN s.head).toNat b } = count s := by simp [count, State.rbN]
  unfold pending
  rw [hc]
  apply List.map_congr_left
  intro k hk
  simp at hk
  have : pendingSlot s k ≠ (incMod s.rbN s.head).toNat := by
    have hcc := count_eq hr.head hr.tail
    have hh := hr.head
    have ht := hr.tail
    have hnx := incMod_cases (by omega) h0.2 hr.head
    have hne : (incMod s.rbN s.head).toNat ≠ s.tail.toNat := fun h => hroom (BitVec.eq_of_toNat_eq h)
    unfold pendingSlot
    by_cases hw : s.tail.toNat + k + 1 < s.rbN
    · rw [Nat.mod_eq_of_lt hw]
      split at hnx <;> split at hcc <;> omega
    · rw [show s.tail.toNat + k + 1 = s.tail.toNat + k + 1 - s.rbN + s.rbN by omega, Nat.add_mod_right,
        Nat.mod_eq_of_lt (by split at hcc <;> omega)]
      split at hnx <;> split at hcc <;> omega
  simp only [List.getD]
  rw [List.getElem?_set_ne]
  · simp [pendingSlot, State.rbN]
  · simp [pendingSlot, State.rbN] at this ⊢
    exact fun h => this h.symm

/-- A non-empty pending sequence begins with the byte in the slot after `TAIL`, and the rest is what is pending once
`TAIL` has advanced to it. -/
theorem pending_emit {s : State} (hi : RingInv s) (he : s.head ≠ s.tail) :
    pending s = s.buf.getD (incMod s.rbN s.tail).toNat 0 :: pending { s with tail := incMod s.rbN s.tail } := by
  have h0 : 0 < s.rbN := by have := hi.size.1; omega
  have htx := incMod_cases h0 hi.size.2 hi.tail
  have hlt := incMod_lt h0 hi.size.2 s.tail
  have hne : s.head.toNat ≠ s.tail.toNat := fun h => he (BitVec.eq_of_toNat_eq h)
  have hht := hi.head
  have htt := hi.tail
  let t : State := { s with tail := incMod s.rbN s.tail }
  have hc : count s = count t + 1 := by
    have ht := count_eq (s := t) hi.head hlt
    have hs := count_eq hi.head hi.tail
    rw [ht, hs]
    show _ = (if (incMod s.rbN s.tail).toNat ≤ s.head.toNat then s.head.toNat - (incMod s.rbN s.tail).toNat
      else s.head.toNat + s.rbN - (incMod s.rbN s.tail).toNat) + 1
    split at htx <;> split <;> split <;> omega
  have hslot : ∀ k, pendingSlot s (k + 1) = pendingSlot t k := by
    intro k
    show (s.tail.toNat + (k + 1) + 1) % s.rbN = ((incMod s.rbN s.tail).toNat + k + 1) % s.rbN
    split at htx
    · rw [htx, show s.tail.toNat + (k + 1) + 1 = 0 + k + 1 + s.rbN by omega, Nat.add_mod_right]
    · rw [htx, show s.tail.toNat + (k + 1) + 1 = s.tail.toNat + 1 + k + 1 by omega]
  have hfirst : pendingSlot s 0 = (incMod s.rbN s.tail).toNat := (incMod_toNat h0 hi.size.2 s.tail).symm
  unfold pending
  rw [hc, List.range_succ_eq_map, List.map_cons, List.map_map, hfirst]
  congr 1
  apply List.map_congr_left
  intro k _
  show s.buf.getD (pendingSlot s (k + 1)) 0 = s.buf.getD (pendingSlot t k) 0
  rw [hslot]

/-- `COMMITTED` is the source off and the buffer not empty. -/
theorem pipeline_committed_iff (s : State) : pipeline s = .committed ↔ s.udrie = false ∧ s.head ≠ s.tail := by
  have : s.isEmpty = decide (s.head = s.tail) := rfl
  rw [pipeline, this]
  cases s.udrie <;> by_cases h : s.head = s.tail <;> simp [h]

theorem pipeline_idle_iff (s : State) : pipeline s = .idle ↔ s.udrie = false ∧ s.head = s.tail := by
  have : s.isEmpty = decide (s.head = s.tail) := rfl
  rw [pipeline, this]
  cases s.udrie <;> by_cases h : s.head = s.tail <;> simp [h]

theorem pipeline_armed_iff (s : State) : pipeline s = .armed ↔ s.udrie = true ∧ s.head ≠ s.tail := by
  have : s.isEmpty = decide (s.head = s.tail) := rfl
  rw [pipeline, this]
  cases s.udrie <;> by_cases h : s.head = s.tail <;> simp [h]

theorem pipeline_armedEmpty_iff (s : State) : pipeline s = .armedEmpty ↔ s.udrie = true ∧ s.head = s.tail := by
  have : s.isEmpty = decide (s.head = s.tail) := rfl
  rw [pipeline, this]
  cases s.udrie <;> by_cases h : s.head = s.tail <;> simp [h]

/-- The executable test of the running string says what `inRunningString` says. -/
theorem readsString_iff (s : State) (a : Half) : s.readsString a = true ↔ inRunningString s a.toNat := by
  unfold State.readsString inRunningString
  split
  · rename_i p hp
    rw [Memory.inString_iff]
    exact ⟨fun h => ⟨p, hp, h⟩, fun ⟨q, hq, h⟩ => by rw [hp] at hq; cases hq; exact h⟩
  · rename_i hn
    exact ⟨fun h => (by cases h), fun ⟨p, hp, _⟩ => absurd hp (hn p)⟩

/-- Past a byte that is not zero the string goes on, and does not stand at the last address. -/
theorem stringFrom_next {m : Memory} {p n : Nat} (h : stringFrom m p n) (hne : m.read n ≠ 0) :
    stringFrom m p (n + 1) ∧ n + 1 < 2 ^ 16 := by
  obtain ⟨hle, hz, ht⟩ := h
  rw [Memory.zeroWithin_eq_false] at hz
  obtain ⟨k, hk, hr⟩ := (Memory.zeroWithin_iff _ _ _).1 ht
  have hk0 : k ≠ 0 := by rintro rfl; exact hne hr
  refine ⟨⟨by omega, Memory.zeroWithin_eq_false.2 fun j hj => ?_, (Memory.zeroWithin_iff _ _ _).2 ⟨k - 1, by omega, ?_⟩⟩,
    by omega⟩
  · by_cases h : j < n - p
    · exact hz j h
    · rwa [show p + j = n by omega]
  · rwa [show n + 1 + (k - 1) = n + k by omega]

/-- What is left of a string does not begin beyond the last address. -/
theorem stringFrom_lt {m : Memory} {p n : Nat} (h : stringFrom m p n) : n < 2 ^ 16 := by
  obtain ⟨k, hk, -⟩ := (Memory.zeroWithin_iff _ _ _).1 h.2.2
  omega

/-- A write outside the string leaves it as it is. -/
theorem stringFrom_write {m : Memory} {p n a : Nat} (v : Byte) (h : stringFrom m p n) (ha : m.inString p a = false) :
    stringFrom (m.write a v) p n := by
  obtain ⟨hle, hz, ht⟩ := h
  have keep : ∀ b, m.inString p b = true → (m.write a v).read b = m.read b :=
    fun b hb => Memory.read_write_inString v ha hb
  rw [Memory.zeroWithin_eq_false] at hz
  have hz' : ∀ b, p ≤ b → b < n → m.read b ≠ 0 := fun b h1 h2 => by
    have := hz (b - p) (by omega)
    rwa [show p + (b - p) = b by omega] at this
  refine ⟨hle, Memory.zeroWithin_eq_false.2 fun k hk => ?_, ?_⟩
  · rw [keep _ (Memory.inString_iff.2 ⟨by omega, fun b h1 h2 => hz' b h1 (by omega)⟩)]
    exact hz k hk
  · obtain ⟨k, ⟨hk, hr⟩, hmin⟩ := Nat.findX ((Memory.zeroWithin_iff _ _ _).1 ht)
    refine (Memory.zeroWithin_iff _ _ _).2 ⟨k, hk, ?_⟩
    rw [← hr]
    refine keep _ (Memory.inString_iff.2 ⟨by omega, fun b h1 h2 hb => ?_⟩)
    by_cases hbn : b < n
    · exact hz' b h1 hbn hb
    · exact hmin (b - n) (by omega) ⟨by omega, by rwa [show n + (b - n) = b by omega]⟩

/-- The invariant says nothing of the model's own schedule fields. -/
theorem inv_schedule {s : State} (hi : Inv s) (ms : List Move) (n : Nat) : Inv { s with script := ms, draws := n } := by
  obtain ⟨⟨a1, a2, a3, a4, a5, a6⟩, ⟨b1, b2, b3, b4, b5⟩, ⟨c1, c2⟩, ⟨d1, d2, d3, d4⟩, ⟨e1, e2, e3, e4⟩⟩ := hi
  exact ⟨⟨a1, a2, a3, a4, a5, a6⟩, ⟨b1, b2, b3, b4, b5⟩, ⟨c1, c2⟩, ⟨d1, d2, d3, d4⟩, ⟨e1, e2, e3, e4⟩⟩

end Sys2Proof.Safety
end

