-- ==== Sys2Proof/Laws/Step.lean ====
section
/-! SUPPORT. What one move and one step can do. -/

namespace Sys2Proof.Machine

/-- A move its agent cannot take changes nothing. -/
theorem perform_disabled {m : Move} {s : State} (h : s.enabled m = false) : perform m s = .next s := by
  simp [perform, h]

/-- A move that executes an instruction executes exactly it. -/
theorem perform_exec {m : Move} {s : State} {i : Instr} (h : s.enabled m = true) (hi : s.instrOf m = some i) :
    perform m s = exec i s := by
  simp [perform, h, hi]

/-- Everything a move that answers a next state can have done. -/
theorem perform_next {m : Move} {s t : State} (h : perform m s = .next t) :
    (s.enabled m = false ∧ t = s) ∨
    (s.enabled m = true ∧ ∃ i, s.instrOf m = some i ∧ exec i s = .next t) ∨
    (s.enabled m = true ∧ s.instrOf m = none ∧ t = s.hostWrite m) := by
  unfold perform at h
  split at h
  · rename_i he
    split at h
    · rename_i i hi
      exact .inr (.inl ⟨he, i, hi, h⟩)
    · exact .inr (.inr ⟨he, ‹_›, by simpa using h.symm⟩)
  · rename_i he
    exact .inl ⟨by simpa using he, by simpa using h.symm⟩

/-- The host's write of `GIE`. -/
theorem perform_writeGie (b : Bool) (s : State) :
    perform (.writeGie b) s = .next (if s.fgpc = .idle then { s with gie := b } else s) := by
  by_cases h : s.fgpc = .idle <;> simp [perform, State.enabled, State.instrOf, State.hostWrite, h]

/-- The host's write of one byte of `STR`. -/
theorem perform_storeStr (a : Half) (v : Byte) (s : State) :
    perform (.storeStr a v) s = .next (if s.readsString a then s else { s with str := s.str.write a.toNat v }) := by
  cases h : s.readsString a <;> simp [perform, State.enabled, State.instrOf, State.hostWrite, h]

theorem step_of_script {s : State} {m : Move} {ms : List Move} (h : s.script = m :: ms) :
    step s = perform m { s with script := ms } := by
  simp [step, State.nextMove, State.afterPick, h]

theorem step_of_free {s : State} (h : s.script = []) :
    step s = perform (Config.freeMove s.draws) { s with draws := s.draws + 1 } := by
  simp [step, State.nextMove, State.afterPick, h]

/-- Picking a move changes the model's own fields `script` and `draws` only. -/
theorem State.afterPick_eq (s : State) :
    ∃ ms n, s.afterPick = { s with script := ms, draws := n } := by
  unfold State.afterPick
  split
  · exact ⟨_, _, rfl⟩
  · exact ⟨s.script, _, rfl⟩

/-- Picking a move changes nothing of the block. -/
theorem State.afterPick_toBlock (s : State) : s.afterPick.toBlock = s.toBlock := by
  obtain ⟨ms, n, h⟩ := s.afterPick_eq
  rw [h]

theorem runMoves_append (xs ys : List Move) (s : State) :
    runMoves (xs ++ ys) s =
      match runMoves xs s with
      | .next t => runMoves ys t
      | .fault f => .fault f
      | .refused r => .refused r := by
  induction xs generalizing s with
  | nil => rfl
  | cons m xs ih =>
    simp only [List.cons_append, runMoves]
    cases perform m s with
    | next t => exact ih t
    | fault f => rfl
    | refused r => rfl

/-- Every change of state a move can make, with the condition it is made under: what the inversion lemmas of the
meanings say, in one place. `same` stands for a spin and for a move that does not happen. -/
inductive Moved (s : State) : State → Prop
  | same : Moved s s
  | acceptInit (bd : BitVec 12) (h : s.fgpc = .idle) : s.hostpc = .idle →
      Moved s (s.latch (bd.setWidth 16) (.init .i0))
  | i0 (h : s.fgpc = .init .i0) : Moved s { s with gie := false, fgpc := .init .i1 }
  | i1 (h : s.fgpc = .init .i1) : Moved s { s with bauddiv := s.argDivisor, fgpc := .init .i2 }
  | i2 (h : s.fgpc = .init .i2) : Moved s (((s.setTxen true).setUdrie false).goto (.init .i3))
  | i3 (h : s.fgpc = .init .i3) : Moved s { s with uframe := Config.frame8N1, fgpc := .init .i4 }
  | i4 (h : s.fgpc = .init .i4) : Moved s { s with head := 0, tail := 0, fgpc := .init .i5 }
  | i5 (h : s.fgpc = .init .i5) : Moved s { s with gie := true, fgpc := .idle }
  | acceptPut (b : Byte) (h : s.fgpc = .idle) : s.hostpc = .idle → s.txReady = true → Moved s (s.acceptPut b)
  | acceptPuts (p : Half) (h : s.fgpc = .idle) : s.hostpc = .idle → s.txReady = true → s.str.terminated p = true →
      Moved s { s.latch p (.str .t0) with instr := true }
  | p0 (h : s.fgpc = .enq .p0) : Moved s { s with next := incMod s.rbN s.head, fgpc := .enq .p1 }
  | p1 (h : s.fgpc = .enq .p1) : s.next ≠ s.tail → Moved s (s.goto (.enq .p2))
  | p2 (h : s.fgpc = .enq .p2) : s.next.toNat < s.rbN →
      Moved s { s with buf := s.buf.set s.next.toNat s.byte, fgpc := .enq .p3 }
  | p3 (h : s.fgpc = .enq .p3) : Moved s { s with head := s.next, fgpc := .enq .p4 }
  | p4Retire (h : s.fgpc = .enq .p4) : s.instr = false → Moved s ((s.setUdrie true).goto .idle)
  | p4Return (h : s.fgpc = .enq .p4) : s.instr = true → Moved s ((s.setUdrie true).goto (.str .t2))
  | t0 (h : s.fgpc = .str .t0) : Moved s { s with ptr := s.arg, fgpc := .str .t1 }
  | t1Retire (h : s.fgpc = .str .t1) : s.str.read s.ptr.toNat = 0 → Moved s { s with byte := 0, fgpc := .idle }
  | t1Enqueue (h : s.fgpc = .str .t1) : s.str.read s.ptr.toNat ≠ 0 →
      Moved s { s with byte := s.str.read s.ptr.toNat, fgpc := .enq .p0 }
  | t2 (h : s.fgpc = .str .t2) : Moved s { s with ptr := s.ptr + 1, fgpc := .str .t1 }
  | acceptCfg (df : Byte) (h : s.fgpc = .idle) : s.hostpc = .idle → (psCode df).isSome = true →
      Moved s (s.latch (df.setWidth 16) (.cfg .c0))
  | c0 (h : s.fgpc = .cfg .c0) : Moved s ((s.setRefs Config.refMode).goto (.cfg .c1))
  | c1 (code : BitVec 3) (h : s.fgpc = .cfg .c1) : psCode s.argByte = some code →
      Moved s (((s.setAden true).setAdps code).goto .idle)
  | acceptSample (ch : BitVec 3) (h : s.fgpc = .idle) : s.hostpc = .idle → s.adcReady = true →
      Moved s (s.acceptSample ch)
  | s0 (h : s.fgpc = .smp .s0) : Moved s ((s.setChsel s.argChannel).goto (.smp .s1))
  | s1 (h : s.fgpc = .smp .s1) : Moved s ((s.setAdsc true).goto (.smp .s2))
  | s2 (h : s.fgpc = .smp .s2) : s.adsc = false → Moved s (s.goto (.smp .s3))
  | s3 (h : s.fgpc = .smp .s3) : Moved s { s with result := s.adata.setWidth 16, fgpc := .idle }
  | disarm : s.drainEnabled = true → s.head = s.tail → Moved s (s.setUdrie false)
  | emit (b : Byte) : s.drainEnabled = true → s.head ≠ s.tail → s.readSlot (incMod s.rbN s.tail) = some b →
      Moved s ({ s with tail := incMod s.rbN s.tail }.writeTxdata b)
  | byteSent : s.udre = false → Moved s s.byteSent
  | conversionDone (v : Sample) : s.adsc = true → Moved s (s.conversionDone v)
  | reportSample (h : s.fgpc = .idle) : s.hostpc = .idle → s.adcReady = true → s.txReady = true →
      Moved s { s.acceptSample Config.reportCh with hostpc := .sampling }
  | reportDecide (h : s.fgpc = .idle) : s.hostpc = .sampling → Moved s s.reportDecide
  | reportPut (c : Byte) (rest : List Byte) (h : s.fgpc = .idle) : s.hostpc = .sending c rest → s.txReady = true →
      Moved s { s.acceptPut c with hostpc := HostPc.ofRest rest }
  | writeGie (b : Bool) (h : s.fgpc = .idle) : Moved s { s with gie := b }
  | storeStr (a : Half) (v : Byte) : s.readsString a = false → Moved s { s with str := s.str.write a.toNat v }

theorem enqueueStep_moved {k : EnqLabel} {s t : State} (h : enqueueStep k s = .next t) (hk : s.fgpc = .enq k) :
    Moved s t := by
  obtain ⟨rfl, rfl⟩ | ⟨rfl, -, rfl⟩ | ⟨rfl, hn, rfl⟩ | ⟨rfl, hn, rfl⟩ | ⟨rfl, rfl⟩ | ⟨rfl, rfl⟩ := enqueueStep_next h
  · exact .p0 hk
  · exact .same
  · exact .p1 hk hn
  · exact .p2 hk hn
  · exact .p3 hk
  · cases hi : s.instr with
    | false => exact .p4Retire hk hi
    | true => exact .p4Return hk hi

/-- An instruction that answers a next state makes one of the changes, provided that a command accepted at `IDLE` finds
the host outside `REPORT`. -/
theorem exec_moved {i : Instr} {s t : State} (h : exec i s = .next t)
    (hh : s.fgpc = .idle → i = .report ∨ i = .drain ∨ i = .txSent ∨ (∃ v, i = .adcDone v) ∨ s.hostpc = .idle) :
    Moved s t := by
  cases i with
  | txinit bd =>
    obtain ⟨h1, rfl⟩ | ⟨k, h1, -, rfl⟩ := execTxinit_next h
    · exact .acceptInit _ h1 (by simpa using hh h1)
    · cases k with
      | i0 => exact .i0 h1
      | i1 => exact .i1 h1
      | i2 => exact .i2 h1
      | i3 => exact .i3 h1
      | i4 => exact .i4 h1
      | i5 => exact .i5 h1
  | txput b =>
    obtain ⟨h1, h2, rfl⟩ | ⟨k, h1, -, h3⟩ := execTxput_next h
    · exact .acceptPut _ h1 (by simpa using hh h1) h2
    · exact enqueueStep_moved h3 h1
  | txputs p =>
    obtain ⟨h1, h2, h3, rfl⟩ | ⟨k, h1, -, h3⟩ | ⟨k, h1, -, rfl⟩ := execTxputs_next h
    · exact .acceptPuts _ h1 (by simpa using hh h1) h2 h3
    · exact enqueueStep_moved h3 h1
    · cases k with
      | t0 => exact .t0 h1
      | t1 =>
        by_cases hz : s.str.read s.ptr.toNat = 0
        · simpa [stringStep, hz] using Moved.t1Retire h1 hz
        · have := Moved.t1Enqueue h1 hz
          simp only [stringStep, if_neg hz]
          exact this
      | t2 => exact .t2 h1
  | adccfg df =>
    obtain ⟨code, hc, ⟨h1, rfl⟩ | ⟨k, h1, h2, rfl⟩⟩ := execAdccfg_next h
    · exact .acceptCfg _ h1 (by simpa using hh h1) (by simp [hc])
    · cases k with
      | c0 => exact .c0 h1
      | c1 =>
        have : s.argByte = df := by simpa [State.inProgress, h1] using h2
        exact .c1 code h1 (by rw [this]; exact hc)
  | adcsample ch =>
    obtain ⟨h1, h2, rfl⟩ | ⟨k, h1, -, rfl⟩ := execAdcsample_next h
    · exact .acceptSample _ h1 (by simpa using hh h1) h2
    · cases k with
      | s0 => exact .s0 h1
      | s1 => exact .s1 h1
      | s2 =>
        cases ha : s.adsc with
        | true => simpa [sampleStep, ha] using Moved.same
        | false => simpa [sampleStep, ha] using Moved.s2 h1 ha
      | s3 => exact .s3 h1
  | drain =>
    obtain ⟨h1, h2⟩ := execDrain_next h
    obtain ⟨he, rfl⟩ | ⟨he, b, hb, rfl⟩ := drainAction_next h2
    · exact .disarm h1 he
    · exact .emit b h1 he hb
  | txSent =>
    obtain ⟨h1, rfl⟩ := execTxSent_next h
    exact .byteSent (by simpa [State.txSentEnabled] using h1)
  | adcDone v =>
    obtain ⟨h1, rfl⟩ := execAdcDone_next h
    exact .conversionDone v h1
  | report =>
    obtain ⟨h0, ⟨h1, h2, h3, rfl⟩ | ⟨h1, rfl⟩ | ⟨c, rest, h1, h2, rfl⟩⟩ := execReport_next h
    · exact .reportSample h0 h1 h2 h3
    · exact .reportDecide h0 h1
    · exact .reportPut c rest h0 h1 h2
  | reserved w => cases h

/-- Everything a move can do: if it answers a next state, the state changed in one of the ways of `Moved`. -/
theorem perform_moved {m : Move} {s t : State} (h : perform m s = .next t) : Moved s t := by
  obtain ⟨-, rfl⟩ | ⟨he, i, hi, hx⟩ | ⟨he, hi, rfl⟩ := perform_next h
  · exact .same
  · refine exec_moved hx fun h0 => ?_
    cases m with
    | foreground => simp [State.enabled, h0] at he
    | _ => simp_all [State.enabled, State.instrOf, State.portReady] <;> subst hi <;> simp
  · cases m with
    | writeGie b => exact .writeGie b (by simpa [State.enabled] using he)
    | storeStr a v => exact .storeStr a v (by simpa [State.enabled] using he)
    | _ => exact .same

/-- Everything a step can do: it picks a move, which changes the model's own `script` and `draws` only, and the state
then changes in one of the ways of `Moved`. -/
theorem step_moved {s t : State} (h : step s = .next t) :
    ∃ ms n, Moved { s with script := ms, draws := n } t := by
  obtain ⟨ms, n, he⟩ := s.afterPick_eq
  exact ⟨ms, n, he ▸ perform_moved h⟩

end Sys2Proof.Machine
end

