-- ==== Sys2Proof/Laws/Moves.lean ====
section
/-! SUPPORT. The foreground's step as one equation, and every change of state with the move that makes it. -/

namespace Sys2Proof.Machine

/-- No word of the command port decodes to an event or to the macro (30_encoding.md R96, R103). -/
theorem decode_ne_event {w : Cmd} :
    decode w ≠ .drain ∧ decode w ≠ .txSent ∧ decode w ≠ .report ∧ ∀ v, decode w ≠ .adcDone v := by
  unfold decode
  refine ⟨?_, ?_, ?_, ?_⟩ <;> intros <;> (repeat' split) <;> simp

/-- A word that decodes to a reserved word is that word. -/
theorem decode_eq_reserved {w v : Cmd} (h : decode w = .reserved v) : v = w := by
  unfold decode at h
  (repeat' split at h) <;> simp_all

/-- `exec` of the command in progress is the micro-step at `FGPC`. -/
theorem exec_inProgress {s : State} {i : Instr} (h : s.inProgress = some i) :
    exec i s = match s.fgpc with
      | .idle => exec i s
      | .init k => .next (initStep k s)
      | .enq k => enqueueStep k s
      | .str k => .next (stringStep k s)
      | .cfg k => (match psCode s.argByte with | some c => .next (configStep c k s) | none => .refused .illegalDivisor)
      | .smp k => .next (sampleStep k s) := by
  have h0 := h
  unfold State.inProgress at h
  split at h
  · cases h
  · rename_i k hk; cases h; simp [exec, execTxinit, hk, h0]
  · rename_i k hk
    split at h <;> cases h <;> simp [exec, execTxput, execTxputs, hk, h0]
  · rename_i k hk; cases h; simp [exec, execTxputs, hk, h0]
  · rename_i k hk
    cases h
    cases hc : psCode s.argByte <;> simp [exec, execAdccfg, hk, h0, hc]
  · rename_i k hk; cases h; simp [exec, execAdcsample, hk, h0]

/-- A foreground move is `exec` of the command in progress. -/
theorem perform_foreground_exec {s : State} {i : Instr} (h : s.inProgress = some i) :
    perform .foreground s = exec i s := by
  have : s.fgpc ≠ .idle := fun h' => by rw [State.inProgress_eq_none.2 h'] at h; cases h
  exact perform_exec (by simpa [State.enabled] using this) h

/-- A foreground move is the micro-step at `FGPC`. -/
theorem perform_foreground (s : State) : perform .foreground s = match s.fgpc with
      | .idle => .next s
      | .init k => .next (initStep k s)
      | .enq k => enqueueStep k s
      | .str k => .next (stringStep k s)
      | .cfg k => (match psCode s.argByte with | some c => .next (configStep c k s) | none => .refused .illegalDivisor)
      | .smp k => .next (sampleStep k s) := by
  cases h : s.inProgress with
  | none =>
    have := State.inProgress_eq_none.1 h
    rw [perform_disabled (by simp [State.enabled, this]), this]
  | some i =>
    rw [perform_foreground_exec h, exec_inProgress h]
    have : s.fgpc ≠ .idle := fun h' => by rw [State.inProgress_eq_none.2 h'] at h; cases h
    cases hh : s.fgpc <;> simp_all

/-- The micro-step of an enqueue, for whichever command runs it. -/
theorem exec_enqueuesFor {s : State} {i : Instr} {k : EnqLabel} (h : Safety.enqueuesFor s i) (hf : s.fgpc = .enq k) :
    exec i s = enqueueStep k s := by
  have : s.inProgress = some i := by
    unfold State.inProgress; rw [hf]
    obtain ⟨h1, rfl⟩ | ⟨h1, rfl⟩ := h <;> simp [h1]
  rw [exec_inProgress this, hf]

/-- Every change of state with the move that makes it and the condition it is made under: `Moved` with its cause. -/
inductive MovedBy (s : State) : Move → State → Prop
  | notTaken (m : Move) : s.enabled m = false → MovedBy s m s
  | spinFull : s.fgpc = .enq .p1 → s.next = s.tail → MovedBy s .foreground s
  | spinBusy : s.fgpc = .smp .s2 → s.adsc = true → MovedBy s .foreground s
  | acceptInit (w : Cmd) (bd : BitVec 12) : s.fgpc = .idle → s.hostpc = .idle → decode w = .txinit bd →
      MovedBy s (.command w) (s.latch (bd.setWidth 16) (.init .i0))
  | acceptPut (w : Cmd) (b : Byte) : s.fgpc = .idle → s.hostpc = .idle → decode w = .txput b → s.txReady = true →
      MovedBy s (.command w) (s.acceptPut b)
  | acceptPuts (w : Cmd) (p : Half) : s.fgpc = .idle → s.hostpc = .idle → decode w = .txputs p → s.txReady = true →
      s.str.terminated p = true → MovedBy s (.command w) { s.latch p (.str .t0) with instr := true }
  | acceptCfg (w : Cmd) (df : Byte) (code : BitVec 3) : s.fgpc = .idle → s.hostpc = .idle → decode w = .adccfg df →
      psCode df = some code → MovedBy s (.command w) (s.latch (df.setWidth 16) (.cfg .c0))
  | acceptSample (w : Cmd) (ch : BitVec 3) : s.fgpc = .idle → s.hostpc = .idle → decode w = .adcsample ch →
      s.adcReady = true → MovedBy s (.command w) (s.acceptSample ch)
  | i0 : s.fgpc = .init .i0 → MovedBy s .foreground { s with gie := false, fgpc := .init .i1 }
  | i1 : s.fgpc = .init .i1 → MovedBy s .foreground { s with bauddiv := s.argDivisor, fgpc := .init .i2 }
  | i2 : s.fgpc = .init .i2 → MovedBy s .foreground (((s.setTxen true).setUdrie false).goto (.init .i3))
  | i3 : s.fgpc = .init .i3 → MovedBy s .foreground { s with uframe := Config.frame8N1, fgpc := .init .i4 }
  | i4 : s.fgpc = .init .i4 → MovedBy s .foreground { s with head := 0, tail := 0, fgpc := .init .i5 }
  | i5 : s.fgpc = .init .i5 → MovedBy s .foreground { s with gie := true, fgpc := .idle }
  | p0 : s.fgpc = .enq .p0 → MovedBy s .foreground { s with next := incMod s.rbN s.head, fgpc := .enq .p1 }
  | p1 : s.fgpc = .enq .p1 → s.next ≠ s.tail → MovedBy s .foreground (s.goto (.enq .p2))
  | p2 : s.fgpc = .enq .p2 → s.next.toNat < s.rbN →
      MovedBy s .foreground { s with buf := s.buf.set s.next.toNat s.byte, fgpc := .enq .p3 }
  | p3 : s.fgpc = .enq .p3 → MovedBy s .foreground { s with head := s.next, fgpc := .enq .p4 }
  | p4Retire : s.fgpc = .enq .p4 → s.instr = false → MovedBy s .foreground ((s.setUdrie true).goto .idle)
  | p4Return : s.fgpc = .enq .p4 → s.instr = true → MovedBy s .foreground ((s.setUdrie true).goto (.str .t2))
  | t0 : s.fgpc = .str .t0 → MovedBy s .foreground { s with ptr := s.arg, fgpc := .str .t1 }
  | t1Retire : s.fgpc = .str .t1 → s.str.read s.ptr.toNat = 0 →
      MovedBy s .foreground { s with byte := 0, fgpc := .idle }
  | t1Enqueue : s.fgpc = .str .t1 → s.str.read s.ptr.toNat ≠ 0 →
      MovedBy s .foreground { s with byte := s.str.read s.ptr.toNat, fgpc := .enq .p0 }
  | t2 : s.fgpc = .str .t2 → MovedBy s .foreground { s with ptr := s.ptr + 1, fgpc := .str .t1 }
  | c0 : s.fgpc = .cfg .c0 → MovedBy s .foreground ((s.setRefs Config.refMode).goto (.cfg .c1))
  | c1 (code : BitVec 3) : s.fgpc = .cfg .c1 → psCode s.argByte = some code →
      MovedBy s .foreground (((s.setAden true).setAdps code).goto .idle)
  | s0 : s.fgpc = .smp .s0 → MovedBy s .foreground ((s.setChsel s.argChannel).goto (.smp .s1))
  | s1 : s.fgpc = .smp .s1 → MovedBy s .foreground ((s.setAdsc true).goto (.smp .s2))
  | s2 : s.fgpc = .smp .s2 → s.adsc = false → MovedBy s .foreground (s.goto (.smp .s3))
  | s3 : s.fgpc = .smp .s3 → MovedBy s .foreground { s with result := s.adata.setWidth 16, fgpc := .idle }
  | disarm : s.drainEnabled = true → s.head = s.tail → MovedBy s .drain (s.setUdrie false)
  | emit (b : Byte) : s.drainEnabled = true → s.head ≠ s.tail → s.readSlot (incMod s.rbN s.tail) = some b →
      MovedBy s .drain ({ s with tail := incMod s.rbN s.tail }.writeTxdata b)
  | byteSent : s.udre = false → MovedBy s .txSent s.byteSent
  | conversionDone (v : Sample) : s.adsc = true → MovedBy s (.adcDone v) (s.conversionDone v)
  | reportSample : s.fgpc = .idle → s.hostpc = .idle → s.adcReady = true → s.txReady = true →
      MovedBy s .report { s.acceptSample Config.reportCh with hostpc := .sampling }
  | reportDecide : s.fgpc = .idle → s.hostpc = .sampling → MovedBy s .report s.reportDecide
  | reportPut (c : Byte) (rest : List Byte) : s.fgpc = .idle → s.hostpc = .sending c rest → s.txReady = true →
      MovedBy s .report { s.acceptPut c with hostpc := HostPc.ofRest rest }
  | writeGie (b : Bool) : s.fgpc = .idle → MovedBy s (.writeGie b) { s with gie := b }
  | storeStr (a : Half) (v : Byte) : s.readsString a = false →
      MovedBy s (.storeStr a v) { s with str := s.str.write a.toNat v }

/-- Everything a move can do, by the move. -/
theorem perform_movedBy {m : Move} {s t : State} (h : perform m s = .next t) : MovedBy s m t := by
  cases m with
  | foreground =>
    rw [perform_foreground] at h
    split at h
    · cases h; exact .notTaken _ (by simp [State.enabled, *])
    · rename_i k hk
      cases h
      cases k
      · exact .i0 hk
      · exact .i1 hk
      · exact .i2 hk
      · exact .i3 hk
      · exact .i4 hk
      · exact .i5 hk
    · rename_i k hk
      obtain ⟨rfl, rfl⟩ | ⟨rfl, hn, rfl⟩ | ⟨rfl, hn, rfl⟩ | ⟨rfl, hn, rfl⟩ | ⟨rfl, rfl⟩ | ⟨rfl, rfl⟩ :=
        enqueueStep_next h
      · exact .p0 hk
      · exact .spinFull hk hn
      · exact .p1 hk hn
      · exact .p2 hk hn
      · exact .p3 hk
      · cases hi : s.instr
        · exact .p4Retire hk hi
        · exact .p4Return hk hi
    · rename_i k hk
      cases h
      cases k
      · exact .t0 hk
      · by_cases hz : s.str.read s.ptr.toNat = 0
        · simpa [stringStep, hz] using MovedBy.t1Retire hk hz
        · have := MovedBy.t1Enqueue hk hz
          simp only [stringStep, if_neg hz]
          exact this
      · exact .t2 hk
    · rename_i k hk
      split at h
      · cases h
        cases k
        · exact .c0 hk
        · exact .c1 _ hk ‹_›
      · cases h
    · rename_i k hk
      cases h
      cases k
      · exact .s0 hk
      · exact .s1 hk
      · cases ha : s.adsc
        · simpa [sampleStep, ha] using MovedBy.s2 hk ha
        · simpa [sampleStep, ha] using MovedBy.spinBusy hk ha
      · exact .s3 hk
  | command w =>
    unfold perform at h
    split at h
    · rename_i hen
      simp only [State.enabled, State.portReady, Bool.and_eq_true, beq_iff_eq] at hen
      obtain ⟨hid, hh⟩ := hen
      simp only [State.instrOf] at h
      cases hd : decode w with
      | txinit bd =>
        rw [hd] at h
        simp [exec, execTxinit, hid] at h
        subst h
        exact .acceptInit _ _ hid hh hd
      | txput bd =>
        rw [hd] at h
        cases ht : s.txReady <;> simp [exec, execTxput, hid, ht] at h
        subst h
        exact .acceptPut _ _ hid hh hd ht
      | txputs bd =>
        rw [hd] at h
        cases ht : s.txReady <;> simp [exec, execTxputs, hid, ht] at h
        cases ht' : s.str.terminated bd <;> simp [ht'] at h
        subst h
        exact .acceptPuts _ _ hid hh hd ht ht'
      | adccfg bd =>
        rw [hd] at h
        cases ht : psCode bd <;> simp [exec, execAdccfg, hid, ht] at h
        subst h
        exact .acceptCfg _ _ _ hid hh hd ht
      | adcsample bd =>
        rw [hd] at h
        cases ht : s.adcReady <;> simp [exec, execAdcsample, hid, ht] at h
        subst h
        exact .acceptSample _ _ hid hh hd ht
      | drain => exact absurd hd decode_ne_event.1
      | txSent => exact absurd hd decode_ne_event.2.1
      | adcDone v => exact absurd hd (decode_ne_event.2.2.2 v)
      | report => exact absurd hd decode_ne_event.2.2.1
      | reserved w' =>
        rw [hd] at h
        simp [exec, execReserved] at h
    · cases h; exact .notTaken _ (Bool.eq_false_iff.2 ‹_›)
  | drain =>
    unfold perform at h
    split at h
    · simp only [State.instrOf] at h
      obtain ⟨h1, h2⟩ := execDrain_next h
      obtain ⟨he, rfl⟩ | ⟨he, b, hb, rfl⟩ := drainAction_next h2
      · exact .disarm h1 he
      · exact .emit b h1 he hb
    · cases h; exact .notTaken _ (Bool.eq_false_iff.2 ‹_›)
  | txSent =>
    unfold perform at h
    split at h
    · obtain ⟨h1, rfl⟩ := execTxSent_next h
      exact .byteSent (by simpa [State.txSentEnabled] using h1)
    · cases h; exact .notTaken _ (Bool.eq_false_iff.2 ‹_›)
  | adcDone v =>
    unfold perform at h
    split at h
    · obtain ⟨h1, rfl⟩ := execAdcDone_next h
      exact .conversionDone v h1
    · cases h; exact .notTaken _ (Bool.eq_false_iff.2 ‹_›)
  | report =>
    unfold perform at h
    split at h
    · obtain ⟨h0, ⟨h1, h2, h3, rfl⟩ | ⟨h1, rfl⟩ | ⟨c, rest, h1, h2, rfl⟩⟩ := execReport_next h
      · exact .reportSample h0 h1 h2 h3
      · exact .reportDecide h0 h1
      · exact .reportPut c rest h0 h1 h2
    · cases h; exact .notTaken _ (Bool.eq_false_iff.2 ‹_›)
  | writeGie b =>
    unfold perform at h
    split at h
    · rename_i hen; cases h; exact .writeGie b (by simpa [State.enabled] using hen)
    · cases h; exact .notTaken _ (Bool.eq_false_iff.2 ‹_›)
  | storeStr b v =>
    unfold perform at h
    split at h
    · rename_i hen; cases h; exact .storeStr b v (by simpa [State.enabled] using hen)
    · cases h; exact .notTaken _ (Bool.eq_false_iff.2 ‹_›)

/-- Everything a step can do, by the move it picks. -/
theorem step_movedBy {s t : State} (h : step s = .next t) :
    ∃ ms n, MovedBy { s with script := ms, draws := n } s.nextMove t := by
  obtain ⟨ms, n, he⟩ := s.afterPick_eq
  exact ⟨ms, n, he ▸ perform_movedBy h⟩

end Sys2Proof.Machine
end

