-- ==== Sys2Proof/Laws/PerInstr.lean ====
section
/-! SUPPORT. Per-instruction facts about the encoding: an encoded instruction lies on its row of
30_encoding.md R95. -/

namespace Sys2Proof.Laws.EncodedRow

/-- The mask and match columns of the instruction's row; none for the rows without a pattern. -/
def row : Instr → Option (Cmd × Cmd)
  | .txinit _ => some (0xFF000, 0x10000)
  | .txput _ => some (0xFFF00, 0x20000)
  | .txputs _ => some (0xF0000, 0x30000)
  | .adccfg _ => some (0xFFF00, 0x40000)
  | .adcsample _ => some (0xFFFF8, 0x50000)
  | .drain => none
  | .txSent => none
  | .adcDone _ => none
  | .report => none
  | .reserved _ => none

/-- The word of a well-formed instruction lies on its row; a word of no row is a reserved one. -/
def Statement (i : Instr) : Prop :=
  i.wellFormed = true → ∀ w, encode i = some w →
    match row i with
    | some (mask, pattern) => w &&& mask = pattern
    | none => isReservedWord w = true

/-- A word built of a pattern and an operand that share no bit, read through a mask that covers the pattern and not the
operand. -/
theorem mask_of_add (pattern x mask : Cmd) (h : pattern &&& x = 0) (hp : pattern &&& mask = pattern)
    (hx : x &&& mask = 0) : (pattern + x) &&& mask = pattern := by
  rw [BitVec.add_eq_or_of_and_eq_zero pattern x h]
  ext i hi
  have h1 := congrArg (fun w : Cmd => w[i]) hp
  have h2 := congrArg (fun w : Cmd => w[i]) hx
  simp only [BitVec.getElem_and] at h1 h2
  simp only [BitVec.getElem_and, BitVec.getElem_or]
  cases hm : mask[i] <;> simp_all

/-- An operand of `n` bits shares no bit with a word whose low `n` bits are 0. -/
theorem operand_and {n : Nat} (x : BitVec n) (m : Cmd) (hm : ∀ i, i < n → m.getLsbD i = false) :
    x.setWidth 20 &&& m = 0 := by
  ext i hi
  by_cases h : i < n
  · simpa [BitVec.getLsbD_eq_getElem hi] using fun _ => by simpa [BitVec.getLsbD_eq_getElem hi] using hm i h
  · simp [BitVec.getElem_setWidth, BitVec.getLsbD_of_ge x i (by omega)]

theorem txinit (bd : BitVec 12) : Statement (.txinit bd) := by
  rintro - w hw
  obtain rfl := Option.some.inj hw
  exact mask_of_add _ _ _ (by rw [BitVec.and_comm]; exact operand_and bd _ (by decide)) (by decide)
    (operand_and bd _ (by decide))

theorem txput (b : Byte) : Statement (.txput b) := by
  rintro - w hw
  obtain rfl := Option.some.inj hw
  exact mask_of_add _ _ _ (by rw [BitVec.and_comm]; exact operand_and b _ (by decide)) (by decide)
    (operand_and b _ (by decide))

theorem txputs (p : Half) : Statement (.txputs p) := by
  rintro - w hw
  obtain rfl := Option.some.inj hw
  exact mask_of_add _ _ _ (by rw [BitVec.and_comm]; exact operand_and p _ (by decide)) (by decide)
    (operand_and p _ (by decide))

theorem adccfg (df : Byte) : Statement (.adccfg df) := by
  rintro - w hw
  obtain rfl := Option.some.inj hw
  exact mask_of_add _ _ _ (by rw [BitVec.and_comm]; exact operand_and df _ (by decide)) (by decide)
    (operand_and df _ (by decide))

theorem adcsample (ch : BitVec 3) : Statement (.adcsample ch) := by
  rintro - w hw
  obtain rfl := Option.some.inj hw
  exact mask_of_add _ _ _ (by rw [BitVec.and_comm]; exact operand_and ch _ (by decide)) (by decide)
    (operand_and ch _ (by decide))

theorem drain : Statement .drain := by rintro - w ⟨⟩

theorem txSent : Statement .txSent := by rintro - w ⟨⟩

theorem adcDone (v : Sample) : Statement (.adcDone v) := by rintro - w ⟨⟩

theorem report : Statement .report := by rintro - w ⟨⟩

theorem reserved (w : Cmd) : Statement (.reserved w) := by
  rintro hwf w' hw
  obtain rfl := Option.some.inj hw
  exact hwf

end Sys2Proof.Laws.EncodedRow
end

