-- ==== Sys2Proof/Machine/Asm.lean ====
section
/-! DEFINITION. The assembler syntax of 30_encoding.md R101 to R104, as functions on lists of characters: a program's
lines give the contents of `STR` and the host's moves. It builds a launch state; no step uses it. -/

namespace Sys2Proof.Machine.Asm

/-- The apostrophe, the double quote, the backslash. -/
def apostrophe : Char := Char.ofNat 39
def doubleQuote : Char := Char.ofNat 34
def backslash : Char := Char.ofNat 92

/-- The line without blanks at its front. -/
def skipBlanks (cs : List Char) : List Char := cs.dropWhile (· == ' ')

/-- The line without blanks at either end. -/
def trim (cs : List Char) : List Char := (skipBlanks (skipBlanks cs).reverse).reverse

/-- Where a reader of a line stands: outside quotes, right after an opening apostrophe, later in a quoted character, in a
quoted text. -/
inductive Quote where
  | outside
  | opened
  | character
  | text
  deriving DecidableEq, Repr

/-- The line up to its comment: a `;` outside quotes starts one (R101). The character right after an opening apostrophe
is quoted whatever it is, so the apostrophe itself can be the quoted character; the rule does not say: DESIGN CHOICE,
safe (log 28). -/
def withoutComment : Quote → List Char → List Char
  | _, [] => []
  | .outside, c :: cs =>
    if c = ';' then []
    else c :: withoutComment (if c = apostrophe then .opened else if c = doubleQuote then .text else .outside) cs
  | .opened, c :: cs => c :: withoutComment .character cs
  | .character, c :: cs => c :: withoutComment (if c = apostrophe then .outside else .character) cs
  | .text, c :: cs => c :: withoutComment (if c = doubleQuote then .outside else .text) cs

/-- The value of a decimal digit. -/
def decDigit (c : Char) : Option Nat :=
  if 48 ≤ c.toNat ∧ c.toNat ≤ 57 then some (c.toNat - 48) else none

/-- The value of a hexadecimal digit. -/
def hexDigit (c : Char) : Option Nat :=
  if 97 ≤ c.toNat ∧ c.toNat ≤ 102 then some (c.toNat - 87)
  else if 65 ≤ c.toNat ∧ c.toNat ≤ 70 then some (c.toNat - 55)
  else decDigit c

/-- The number the digits write in the base, read on from `acc`. -/
def digits (base : Nat) (digit : Char → Option Nat) : Nat → List Char → Option Nat
  | acc, [] => some acc
  | acc, c :: cs =>
    match digit c with
    | some d => digits base digit (acc * base + d) cs
    | none => none

/-- A numeric operand: decimal, or hexadecimal with the prefix 0x (R101). -/
def number : List Char → Option Nat
  | [] => none
  | [c] => decDigit c
  | c :: d :: cs =>
    if c = '0' ∧ d = 'x' then (if cs = [] then none else digits 16 hexDigit 0 cs)
    else digits 10 decDigit 0 (c :: d :: cs)

/-- The escapes of a quoted character: carriage return, line feed, zero (R101). -/
def escape (c : Char) : Option Nat :=
  if c = 'r' then some 13 else if c = 'n' then some 10 else if c = '0' then some 0 else none

/-- A byte operand: a number, or one ASCII character in single quotes (R101). Any ASCII character, the apostrophe and the
backslash among them, may be the quoted one: DESIGN CHOICE, safe (log 28). -/
def byteOperand (cs : List Char) : Option Nat :=
  match cs with
  | [a, c, b] => if a = apostrophe ∧ b = apostrophe ∧ c.toNat < 128 then some c.toNat else number cs
  | [a, e, c, b] => if a = apostrophe ∧ e = backslash ∧ b = apostrophe then escape c else number cs
  | _ => number cs

/-- The labels of the string section with their addresses. -/
abbrev Labels := List (List Char × Half)

/-- The operand of `TXPUTS`: a label of the string section, or a number (R101). A label whose spelling reads as a number
wins over the number: DESIGN CHOICE, unsafe (log 29). -/
def addressOperand (ls : Labels) (cs : List Char) : Option Nat :=
  match ls.lookup cs with
  | some a => some a.toNat
  | none => number cs

/-- The instruction that `make` builds of a `w`-bit operand; none where the number does not fit, a line that is then
rejected: DESIGN CHOICE, safe (log 24). -/
def fits (w : Nat) (make : BitVec w → Instr) (n : Option Nat) : Option Instr :=
  match n with
  | some v => if v < 2 ^ w then some (make (BitVec.ofNat w v)) else none
  | none => none

/-- The characters of a mnemonic, for comparison. -/
def word (s : String) : List Char := s.toList

/-- A command line without its comment: the mnemonic, one space, one operand; `REPORT` has none (R101, R103). A `REPORT`
line is ONE `report` move, the first step of a round of R210 (or its next step, inside a round): DESIGN CHOICE, unsafe
(log 25). The number of the round's other steps depends on the value sampled, so the schedule adds their moves. -/
def command (ls : Labels) (cs : List Char) : Option Move :=
  let name := cs.takeWhile (· != ' ')
  let operand := (cs.dropWhile (· != ' ')).drop 1
  let instr :=
    if name = word "TXINIT" then fits 12 .txinit (number operand)
    else if name = word "TXPUT" then fits 8 .txput (byteOperand operand)
    else if name = word "TXPUTS" then fits 16 .txputs (addressOperand ls operand)
    else if name = word "ADCCFG" then fits 8 .adccfg (byteOperand operand)
    else if name = word "ADCSAMPLE" then fits 3 .adcsample (number operand)
    else none
  if cs = word "REPORT" then some .report
  else (instr.bind encode).map .command

/-- A line of the string section (R102): its label, its text and its address. Each character of the text gives the one
byte that is its ASCII code; there are no escapes in a text, and a text with a character that is not ASCII is rejected:
DESIGN CHOICE, safe (log 27). The label is whatever stands before the first colon, without the blanks around it, any
characters or none; the rule does not say which spellings a label may have: DESIGN CHOICE, unsafe (log 29). -/
def stringLine (cs : List Char) : Option (List Char × List Byte × Half) :=
  let label := cs.takeWhile (· != ':')
  let rest := skipBlanks ((cs.dropWhile (· != ':')).drop 1)
  if rest.take 6 = word ".asciz" then
    match skipBlanks (rest.drop 6) with
    | [] => none
    | q :: body =>
      let text := body.takeWhile (· != doubleQuote)
      match skipBlanks ((body.dropWhile (· != doubleQuote)).drop 1) with
      | [] => none
      | at0 :: addr =>
        match number (skipBlanks addr) with
        | some a =>
          if q = doubleQuote ∧ at0 = '@' ∧ a < 2 ^ 16 ∧ text.all (·.toNat < 128) = true then
            some (trim label, text.map fun c => BitVec.ofNat 8 c.toNat, BitVec.ofNat 16 a)
          else none
        | none => none
  else none

/-- A program's lines, comments and blank lines removed. -/
def cleaned (lines : List (List Char)) : List (List Char) :=
  (lines.map fun l => trim (withoutComment .outside l)).filter (· != [])

/-- The labels of a program, wherever their lines stand in it: a command may name one that a later line defines. DESIGN
CHOICE, unsafe (log 29). -/
def labels : List (List Char) → Labels
  | [] => []
  | l :: ls =>
    match stringLine l with
    | some (n, _, a) => (n, a) :: labels ls
    | none => labels ls

/-- The contents of `STR` that a program's string section asks for (R102). -/
def strings : List (List Char) → Memory → Memory
  | [], m => m
  | l :: ls, m =>
    match stringLine l with
    | some (_, bs, a) => strings ls (m.placeString a bs)
    | none => strings ls m

/-- The host's moves of a program's commands; none where a line is neither a command nor a string. -/
def moves (env : Labels) : List (List Char) → Option (List Move)
  | [] => some []
  | l :: ls =>
    match stringLine l with
    | some _ => moves env ls
    | none =>
      match command env l, moves env ls with
      | some m, some ms => some (m :: ms)
      | _, _ => none

/-- The assembled program: the host's moves, and `STR` with the strings placed. -/
def assemble (lines : List (List Char)) (m : Memory) : Option (List Move × Memory) :=
  let ls := cleaned lines
  match moves (labels ls) ls with
  | some ms => some (ms, strings ls m)
  | none => none

end Sys2Proof.Machine.Asm
end

