-- ==== Sys2Proof/Tests/Slice0.lean ====
section
/-! SUPPORT. The model's own tests. Expected values are those of 95_test_vectors.md or of the rule a test names; the
`witness` theorems show states and operands that meet the hypotheses of the statements in Obligations.lean. -/

namespace Sys2Proof.Tests

open Sys2Proof Sys2Proof.Machine Sys2Proof.Safety

/-! ### Well-formedness -/

/-- A word of a command row is no reserved word. -/
theorem test_reserved_rejects_command_word : (Instr.reserved 0x10067).wellFormed = false := by decide

/-- The first reserved word of each kind of 95_test_vectors.md V1. -/
theorem test_reserved_accepts_reserved_words :
    [0x00000, 0x11000, 0x20100, 0x40100, 0x50008, 0x60000, 0xFFFFF].all (fun w => (Instr.reserved w).wellFormed) := by
  decide

/-! ### Decoding: words written out from 30_encoding.md R92, R95; operands of 95_test_vectors.md V1 -/

/-- Opcode 1, zeros 15:12, divisor 11:0. -/
theorem test_decode_txinit : decode 0b0001_0000_000001100111#20 = .txinit 103 := by decide

/-- Opcode 2, zeros 15:8, byte 7:0. -/
theorem test_decode_txput : decode 0b0010_00000000_01000001#20 = .txput 0x41 := by decide

/-- Opcode 3, address 15:0. -/
theorem test_decode_txputs : decode 0b0011_0000000100000000#20 = .txputs 0x0100 := by decide

/-- Opcode 4, zeros 15:8, factor 7:0. -/
theorem test_decode_adccfg : decode 0b0100_00000000_10000000#20 = .adccfg 128 := by decide

/-- Opcode 5, zeros 15:3, channel 2:0. -/
theorem test_decode_adcsample : decode 0b0101_0000000000000_111#20 = .adcsample 7 := by decide

/-- The all-zero word, opcode 6, and one set must-be-zero bit in each format. -/
theorem test_decode_reserved :
    [0x00000, 0x60000, 0x11000, 0x20100, 0x40100, 0x50008].all (fun w => decode w == .reserved w) := by decide

/-- The words of the expansion of `REPORT` for 600 (V8). -/
theorem test_encode_report :
    encode (.adcsample 0) = some 0x50000 ∧
    (reportBytes 600).map (fun c => encode (.txput c)) =
      [some 0x20036, some 0x20030, some 0x20030, some 0x2000D, some 0x2000A] := by decide

/-! ### The states of the tests -/

/-- The next state of an outcome, none where it stops. -/
def nextOf : Result → Option State
  | .next t => some t
  | _ => none

/-- A buffer of four slots after `TXINIT 103` and `ADCCFG 128`, with the string "Hi" at 0x0100. -/
def ready : State :=
  { State.reset with
    buf := [0, 0, 0, 0], bauddiv := 103, uctrl := 0x08, uframe := 0x06, gie := true, actrl := 0x87, amux := 0x40
    str := [(0x0100, 0x48), (0x0101, 0x69)] }

/-- One byte pending, the source armed. -/
def armed : State := { ready with buf := [0, 0x41, 0, 0], head := 1, uctrl := 0x28 }

/-- The same with the byte in flight and the buffer empty. -/
def inFlight : State :=
  { armed with tail := 1, ustat := 0, txdata := 0x41, txlog := [0x41] }

/-- Three bytes pending in a buffer of four slots: full, and the indices wrapped. -/
def full : State := { armed with buf := [0x63, 0, 0x61, 0x62], head := 0, tail := 1 }

/-- The foreground at a micro-step of an enqueue of 0x42 on behalf of `TXPUT`. -/
def enqueuing (k : EnqLabel) (s : State) : State :=
  { s with fgpc := .enq k, arg := 0x42, byte := 0x42, next := incMod s.rbN s.head }

/-- The foreground waiting for the converter. -/
def sampling : State := { ready with fgpc := .smp .s2, arg := 3, amux := 0x43, actrl := 0xC7 }

/-- The foreground at a micro-step of `TXPUTS 0x0100`, at the first byte of the string. -/
def putting (k : StrLabel) : State :=
  { ready with fgpc := .str k, instr := true, arg := 0x0100, ptr := 0x0100 }

/-- The state with one move to come. -/
def about (m : Move) (s : State) : State := { s with script := [m] }

/-! ### One step of each instruction -/

/-- V3.1, the step `I2`: the transmitter on, the source off. -/
theorem test_txinit_i2 :
    (nextOf (exec (.txinit 103) { State.reset with fgpc := .init .i2, arg := 103, uctrl := 0x20 })).map (·.uctrl) =
      some 0x08 := by decide

/-- V3.3, the step `I4` with bytes pending: both indices go to 0. -/
theorem test_txinit_i4 :
    (nextOf (exec (.txinit 103) { full with fgpc := .init .i4, arg := 103 })).map (fun t => (t.head, t.tail)) =
      some (0, 0) := by decide

/-- V4.4: from `HEAD = 63` of 64 slots the next slot is 0. -/
theorem test_txput_wraps :
    (nextOf (exec (.txput 0x42) { State.reset with fgpc := .enq .p0, arg := 0x42, head := 63 })).map (·.next) =
      some 0 := by decide

/-- V4.1, the step `P4`: the source on, the command retired. -/
theorem test_txput_arms :
    (nextOf (exec (.txput 0x42) (enqueuing .p4 ready))).map (fun t => (t.uctrl, t.fgpc)) = some (0x28, .idle) := by
  decide

/-- V5.1, the step `T1` on a zero byte: the command retires with nothing armed. -/
theorem test_txputs_terminator :
    (nextOf (exec (.txputs 0x0200) { ready with fgpc := .str .t1, instr := true, arg := 0x0200, ptr := 0x0200 })).map
      (fun t => (t.byte, t.uctrl, t.fgpc)) = some (0, 0x08, .idle) := by decide

/-- V5.2, the step `T2`. -/
theorem test_txputs_next :
    (nextOf (exec (.txputs 0x0200) { ready with fgpc := .str .t2, instr := true, arg := 0x0200, ptr := 0x0200 })).map
      (fun t => (t.ptr, t.fgpc)) = some (0x0201, .str .t1) := by decide

/-- V7, second call: the prescaler is replaced, not merged. -/
theorem test_adccfg_replaces :
    (nextOf (exec (.adccfg 4) { ready with fgpc := .cfg .c1, arg := 4 })).map (·.actrl) = some 0x82 := by decide

/-- V7, an illegal factor. -/
theorem test_adccfg_illegal : exec (.adccfg 7) ready = .refused .illegalDivisor := rfl

/-- V7.2: the old channel is cleared, the reference bits stay. -/
theorem test_adcsample_masks :
    (nextOf (exec (.adcsample 0) { ready with fgpc := .smp .s0, amux := 0x47 })).map (·.amux) = some 0x40 := by decide

/-- V7.6, the step `S3`: the value widened. -/
theorem test_adcsample_widens :
    (nextOf (exec (.adcsample 3) { sampling with fgpc := .smp .s3, adata := 1023 })).map
      (fun t => (t.result, t.fgpc)) = some (0x03FF, .idle) := by decide

/-- V6.8: the older byte first. -/
theorem test_drain_oldest :
    (nextOf (exec .drain { full with head := 3, tail := 1 })).map (fun t => (t.tail, t.txdata, t.udre, t.txlog)) =
      some (2, 0x61, false, [0x61]) := by decide

/-- V6.11: the empty branch clears one bit. -/
theorem test_drain_disarms :
    (nextOf (exec .drain { ready with uctrl := 0x38 })).map (·.uctrl) = some 0x18 := by decide

/-- V6.3. -/
theorem test_txSent :
    (nextOf (exec .txSent inFlight)).map (fun t => (t.wire, t.udre)) = some ([0x41], true) := by decide

/-- V7.6, the converter's step. -/
theorem test_adcDone :
    (nextOf (exec (.adcDone 1023) sampling)).map (fun t => (t.adata, t.actrl)) = some (1023, 0x87) := by decide

/-- SRC7: the threshold is strict. -/
theorem test_report_threshold :
    (nextOf (exec .report { ready with hostpc := .sampling, result := 512 })).map (·.dout) = some false ∧
    (nextOf (exec .report { ready with hostpc := .sampling, result := 513 })).map (·.dout) = some true := by decide

/-- V8: digits, carriage return, line feed. -/
theorem test_report_bytes :
    reportBytes 0 = [0x30, 0x0D, 0x0A] ∧ reportBytes 100 = [0x31, 0x30, 0x30, 0x0D, 0x0A] ∧
    reportBytes 1009 = [0x31, 0x30, 0x30, 0x39, 0x0D, 0x0A] := by decide

/-- V1, last line: a reserved word has no meaning. -/
theorem test_reserved_refused : exec (.reserved 0x60000) ready = .refused .reservedWord := rfl

/-- V2: `inc_mod` on 2, 3, 100 and 256 slots. -/
theorem test_incMod :
    incMod 2 1 = 0 ∧ incMod 3 2 = 0 ∧ incMod 100 99 = 0 ∧ incMod 256 254 = 255 ∧ incMod 256 255 = 0 := by decide

/-- V2: `COUNT` across the wrap. -/
theorem test_count_wraps :
    count { State.reset with head := 2, tail := 60 } = 6 ∧ count { State.reset with head := 4, tail := 5 } = 63 := by
  decide

/-- R101, R102 of 30_encoding.md on the lines of program A and on the quoted characters. -/
theorem test_assemble :
    Asm.assemble
      ["msg:  .asciz \"Hi\" @ 0x0100       ; STR".toList, "      TXINIT 103     ; 0x10067".toList, "".toList,
        "TXPUTS msg".toList, "TXPUT '\\r'".toList, "TXPUT ';' ; a".toList, "TXPUT ''' ; b".toList, "REPORT".toList] [] =
      some ([.command 0x10067, .command 0x30100, .command 0x2000D, .command 0x2003B, .command 0x20027, .report],
        [(0x100, 0x48), (0x101, 0x69)]) := by decide

/-- R102 of 30_encoding.md: what is no ASCII character gives no byte. -/
theorem test_assemble_ascii : Asm.stringLine "m: .asciz \"\u0100\" @ 0".toList = none := by decide

/-- The reset contents of `STR` are in canonical form. -/
theorem test_reset_str_wf : State.reset.str.wf = true := by decide

/-! ### The test states meet the invariant -/

theorem reset_like : ResetLike State.reset := by constructor <;> decide

theorem ready_inv : Inv ready :=
  ⟨by constructor <;> decide, by constructor <;> decide, ⟨by decide, fun _ h => by cases h⟩, by constructor <;> decide,
    ⟨trivial, trivial, trivial, by decide⟩⟩

theorem reset_inv : Inv State.reset :=
  ⟨by constructor <;> decide, by constructor <;> decide, ⟨by decide, fun _ h => by cases h⟩, by constructor <;> decide,
    ⟨trivial, trivial, trivial, by decide⟩⟩

theorem armed_inv : Inv armed :=
  ⟨by constructor <;> decide, by constructor <;> decide, ⟨by decide, fun _ h => by cases h⟩, by constructor <;> decide,
    ⟨trivial, trivial, trivial, by decide⟩⟩

theorem inFlight_inv : Inv inFlight :=
  ⟨by constructor <;> decide, by constructor <;> decide, ⟨by decide, fun _ h => by cases h⟩, by constructor <;> decide,
    ⟨trivial, trivial, trivial, by decide⟩⟩

theorem full_ring : RingInv full := by constructor <;> decide

theorem sampling_inv : Inv sampling :=
  ⟨by constructor <;> decide, by constructor <;> decide, ⟨by decide, fun _ _ => by decide⟩, by constructor <;> decide,
    ⟨show sampling.arg.toNat < 2 ^ 3 by decide, trivial, trivial, by decide⟩⟩

theorem about_inv {s : State} (h : Inv s) (m : Move) : Inv (about m s) := inv_schedule h [m] s.draws

/-- The foreground at `P2`, and at `P4`, of an enqueue. -/
theorem enqueuing_inv : Inv (enqueuing .p2 ready) ∧ Inv (enqueuing .p4 ready) :=
  ⟨⟨by constructor <;> decide, by constructor <;> decide, ⟨by decide, fun _ h => by cases h⟩, by constructor <;> decide,
      ⟨.inr (show (0x42 : Half).toNat < 2 ^ 8 by decide), (fun h => by cases h), trivial, by decide⟩⟩,
    ⟨by constructor <;> decide, by constructor <;> decide, ⟨by decide, fun _ h => by cases h⟩, by constructor <;> decide,
      ⟨.inr (show (0x42 : Half).toNat < 2 ^ 8 by decide), (fun h => by cases h), trivial, by decide⟩⟩⟩

/-- The foreground inside `TXPUTS`: a state with what is left of a string. -/
theorem putting_inv : Inv (putting .t1) :=
  ⟨by constructor <;> decide, by constructor <;> decide, ⟨by decide, fun _ h => by cases h⟩, by constructor <;> decide,
    ⟨rfl, ⟨by decide, by decide, by decide⟩, trivial, by decide⟩⟩

/-- The foreground at `P3`, the slot written and not yet committed. -/
def written : State := { enqueuing .p3 ready with buf := [0, 0x42, 0, 0] }

theorem written_inv : Inv written :=
  ⟨by constructor <;> decide, by constructor <;> decide, ⟨by decide, fun _ h => by cases h⟩, by constructor <;> decide,
    ⟨.inr (show (0x42 : Half).toNat < 2 ^ 8 by decide), (fun h => by cases h), trivial, by decide⟩⟩

/-! ### Witnesses: states and operands that meet the hypotheses of each statement -/

/-- The enqueue of 0x42 runs for `TXPUT 0x42` when `INSTR` is 0. -/
theorem enqueuing_for (k : EnqLabel) (s : State) (h : s.instr = false) : enqueuesFor (enqueuing k s) (.txput 0x42) :=
  .inl ⟨h, rfl⟩

theorem witness_DecodeInvertsEncode :
    (Instr.txinit 4095).wellFormed = true ∧ encode (.txinit 4095) = some 0x10FFF ∧
    (Instr.txputs 0xFFFF).wellFormed = true ∧ encode (.txputs 0xFFFF) = some 0x3FFFF ∧
    (Instr.reserved 0x50008).wellFormed = true ∧ encode (.reserved 0x50008) = some 0x50008 := by decide

theorem witness_DecodeFollowsOpcodeMap :
    (0x10FFF &&& 0xFF000 : Cmd) = 0x10000 ∧ (0x200FF &&& 0xFFF00 : Cmd) = 0x20000 ∧
    (0x3FFFF &&& 0xF0000 : Cmd) = 0x30000 ∧ (0x400FF &&& 0xFFF00 : Cmd) = 0x40000 ∧
    (0x50007 &&& 0xFFFF8 : Cmd) = 0x50000 := by decide

theorem witness_ReservedWordsAreRefused :
    (0x0FFFF : Cmd).extractLsb' 16 4 = 0 ∧ 6 ≤ ((0x60000 : Cmd).extractLsb' 16 4).toNat ∧
    ((0x11000 : Cmd).extractLsb' 16 4 = 1 ∧ (0x11000 : Cmd).extractLsb' 12 4 ≠ 0) ∧
    ((0x20100 : Cmd).extractLsb' 16 4 = 2 ∧ (0x20100 : Cmd).extractLsb' 8 8 ≠ 0) ∧
    ((0x40100 : Cmd).extractLsb' 16 4 = 4 ∧ (0x40100 : Cmd).extractLsb' 8 8 ≠ 0) ∧
    ((0x50008 : Cmd).extractLsb' 16 4 = 5 ∧ (0x50008 : Cmd).extractLsb' 3 13 ≠ 0) ∧
    ready.portReady = true := by decide

theorem witness_StepRunsPresentedWord :
    decodeTableWord 20 0x3FFFF = some (.txputs 0xFFFF) ∧ decodeTableWord 20 0x60000 = none ∧
    decodeTableWord 20 (2 ^ 20) = none := by decide

theorem witness_StepPerformsTheNextMove :
    ((about .drain armed).script = [.drain] ∧ armed = { about .drain armed with script := [] } ∧
      armed.enabled .drain = true ∧ armed.instrOf .drain = some .drain) ∧
    ready.enabled .drain = false ∧
    (ready.enabled (.writeGie false) = true ∧ ready.instrOf (.writeGie false) = none) ∧
    ready.script = [] := by decide

theorem witness_OnlyHostActsAtReset : ResetLike State.reset := reset_like

theorem witness_ResetMeetsInvariant :
    ResetLike { State.reset with buf := List.replicate 100 0xFF, bauddiv := 4095, amux := 0xC7, dout := true } := by
  constructor <;> decide

theorem witness_EveryStepKeepsInvariant : Inv (about .drain armed) ∧ ∃ t, step (about .drain armed) = .next t :=
  ⟨about_inv armed_inv _, _, rfl⟩

theorem witness_StepNeverFaults : Inv full :=
  ⟨full_ring, by constructor <;> decide, ⟨by decide, fun _ h => by cases h⟩, by constructor <;> decide,
    ⟨trivial, trivial, trivial, by decide⟩⟩

theorem witness_RefusalsAreContractViolations :
    (∀ m, Inv (about m State.reset)) ∧ step (about (.command 0x60000) State.reset) = .refused .reservedWord ∧
    step (about (.command 0x40000) State.reset) = .refused .illegalDivisor ∧
    step (about (.command 0x20000) State.reset) = .refused .txNotReady ∧
    step (about (.command 0x3FFFF) { ready with str := [(0xFFFF, 1)] }) = .refused .unterminatedString ∧
    step (about (.command 0x50000) State.reset) = .refused .adcNotReady ∧
    step (about .report State.reset) = .refused .adcNotReady ∧
    step (about .report { State.reset with actrl := 0x80 }) = .refused .txNotReady :=
  ⟨about_inv reset_inv, rfl, rfl, rfl, rfl, rfl, rfl, rfl⟩

theorem witness_ReadinessComesFromInitialisation :
    (∃ t, step (about .foreground { ready with fgpc := .init .i5 }) = .next t ∧
      (about .foreground { ready with fgpc := .init .i5 }).txReady = false ∧ t.txReady = true) ∧
    (∃ t, step (about (.command 0x10000) ready) = .next t ∧
      (about (.command 0x10000) ready).txReady = true ∧ t.txReady = false) ∧
    (∃ t, step (about .foreground { State.reset with fgpc := .cfg .c1, arg := 128 }) = .next t ∧
      (about .foreground { State.reset with fgpc := .cfg .c1, arg := 128 }).adcReady = false ∧ t.adcReady = true) ∧
    (∃ t, step (about (.command 0x40004) ready) = .next t ∧
      (about (.command 0x40004) ready).adcReady = true ∧ t.adcReady = false) :=
  ⟨⟨_, rfl, rfl, rfl⟩, ⟨_, rfl, rfl, rfl⟩, ⟨_, rfl, rfl, rfl⟩, ⟨_, rfl, rfl, rfl⟩⟩

theorem witness_AcceptanceLatchesOperand :
    ready.fgpc = .idle ∧ ready.txReady = true ∧ ready.str.terminated 0x0100 = true ∧
    (128 : Byte) ∈ [4, 8, 16, 32, 64, (128 : Byte)] ∧ ready.adcReady = true := by decide

theorem witness_PortClosedWhileCommandRuns :
    sampling.fgpc ≠ .idle ∧ sampling.inProgress ≠ some (.txput 0) ∧ sampling.inProgress ≠ some (.adcsample 7) ∧
    sampling.inProgress ≠ some .report := by decide

theorem witness_TxinitMicroSteps :
    ({ State.reset with fgpc := .init .i0 } : State).fgpc = .init .i0 ∧
    Inv { State.reset with fgpc := .init .i1, arg := 4095 } ∧ masksInterrupts (.init .i1) = true :=
  ⟨rfl, ⟨by constructor <;> decide, by constructor <;> decide, ⟨by decide, fun _ h => by cases h⟩,
    by constructor <;> decide, ⟨show (4095 : Half).toNat < 2 ^ 12 by decide, trivial, trivial, by decide⟩⟩, rfl⟩

theorem witness_TxinitRunLeavesPostcondition : State.reset.portReady = true ∧ full.portReady = true := by decide

theorem witness_IndexIncrementWraps :
    (2 ≤ 2 ∧ 2 ≤ 256 ∧ (1 : Byte).toNat < 2) ∧ (2 ≤ 256 ∧ 256 ≤ 256 ∧ (255 : Byte).toNat < 256) ∧
    (2 ≤ 64 ∧ 64 ≤ 256 ∧ (62 : Byte).toNat < 64) := by decide

theorem witness_EnqueueMicroSteps :
    (∀ k, enqueuesFor (enqueuing k ready) (.txput 0x42)) ∧
    enqueuesFor { enqueuing .p4 ready with instr := true } (.txputs 0x42) ∧
    (∀ k, (enqueuing k ready).fgpc = .enq k) ∧
    (enqueuing .p1 full).next = (enqueuing .p1 full).tail ∧ (enqueuing .p1 ready).next ≠ (enqueuing .p1 ready).tail ∧
    ({ enqueuing .p2 ready with next := 3 } : State).next.toNat < ready.buf.length :=
  ⟨fun k => enqueuing_for k ready rfl, .inr ⟨rfl, rfl⟩, fun _ => rfl, by decide, by decide, by decide⟩

theorem witness_SlotWriteKeepsPending :
    RingInv (enqueuing .p2 armed) ∧ enqueuesFor (enqueuing .p2 armed) (.txput 0x42) ∧
    (enqueuing .p2 armed).fgpc = .enq .p2 :=
  ⟨by constructor <;> decide, enqueuing_for _ _ rfl, rfl⟩

theorem witness_CommitAppendsByte :
    RingInv { enqueuing .p3 armed with buf := [0, 0x41, 0x42, 0] } ∧
    enqueuesFor { enqueuing .p3 armed with buf := [0, 0x41, 0x42, 0] } (.txput 0x42) ∧
    (enqueuing .p3 armed).fgpc = .enq .p3 :=
  ⟨by constructor <;> decide, .inl ⟨rfl, rfl⟩, rfl⟩

theorem witness_TxputRunAppendsOrBlocks :
    (RingInv ready ∧ ready.portReady = true ∧ ready.txReady = true ∧ ready.isFull = false) ∧
    (RingInv full ∧ full.portReady = true ∧ full.txReady = true ∧ full.isFull = true) :=
  ⟨⟨ready_inv.ring, by decide, by decide, by decide⟩, ⟨full_ring, by decide, by decide, by decide⟩⟩

theorem witness_EnqueueRefusedBeforeInit : State.reset.fgpc = .idle ∧ State.reset.txReady = false := by decide

theorem witness_TxputsMicroSteps :
    (({ ready with fgpc := .str .t0 } : State).fgpc = .str .t0) ∧
    ({ ready with fgpc := .str .t1, ptr := 0xFFFF } : State).str.read 0xFFFF = 0 ∧
    ({ ready with fgpc := .str .t1, ptr := 0x0101 } : State).str.read 0x0101 ≠ 0 ∧
    (({ ready with fgpc := .enq .p4, instr := true } : State).instr = true) ∧
    (({ ready with fgpc := .str .t2, ptr := 0xFFFF } : State).fgpc = .str .t2) := by decide

theorem witness_UnterminatedStringRefused :
    ready.fgpc = .idle ∧ ready.txReady = true ∧
    ∀ a, (0xFFFF : Half).toNat ≤ a → a < 2 ^ 16 → Memory.read [(0xFFFF, 1)] a ≠ 0 :=
  ⟨rfl, rfl, fun a h1 h2 => by
    have h3 : a = 0xFFFF := by
      have : (0xFFFF : Half).toNat = 0xFFFF := rfl
      omega
    subst h3
    decide⟩

theorem witness_TxputsRunAppendsString :
    Inv ready ∧ ready.portReady = true ∧ ready.txReady = true ∧
    (∀ k (h : k < ([0x48, 0x69] : List Byte).length),
      ready.str.read ((0x0100 : Half).toNat + k) = ([0x48, 0x69] : List Byte)[k] ∧ ([0x48, 0x69] : List Byte)[k] ≠ 0) ∧
    ready.str.read (0x0100 + 2) = 0 ∧ 0x0100 + 2 < 2 ^ 16 ∧ count ready + 2 < ready.rbN :=
  ⟨ready_inv, by decide, by decide, by decide, by decide, by decide, by decide⟩

theorem witness_EmbeddedEnqueueEqualsTxput :
    ∃ t, exec (.txputs 0x42) { enqueuing .p4 ready with instr := true } = .next t := ⟨_, rfl⟩

theorem witness_DrainTrigger :
    ¬ (ready.gie = true ∧ ready.udrie = true ∧ ready.udre = true) ∧
    (armed.gie = true ∧ armed.udrie = true ∧ armed.udre = true ∧ RingInv armed) :=
  ⟨by decide, by decide, by decide, by decide, armed_inv.ring⟩

theorem witness_DrainAction :
    (({ armed with tail := 1 } : State).drainEnabled = true ∧ armed.head = ({ armed with tail := 1 } : State).tail) ∧
    (armed.drainEnabled = true ∧ armed.head ≠ armed.tail ∧
      armed.buf[(incMod armed.rbN armed.tail).toNat]? = some 0x41) := by decide

theorem witness_MissingSlotFaults :
    (enqueuesFor { enqueuing .p2 ready with next := 4 } (.txput 0x42) ∧
      ready.buf.length ≤ ({ enqueuing .p2 ready with next := 4 } : State).next.toNat) ∧
    (({ armed with buf := [] } : State).drainEnabled = true ∧ armed.head ≠ armed.tail ∧
      ({ armed with buf := [] } : State).buf[(incMod 0 armed.tail).toNat]? = none) ∧
    (Inv (enqueuing .p2 ready) ∧ (enqueuing .p2 ready).fgpc = .enq .p2) :=
  ⟨⟨.inl ⟨rfl, rfl⟩, by decide⟩, by decide, enqueuing_inv.1, rfl⟩

theorem witness_DrainEmitsOldestByte :
    RingInv full ∧ full.drainEnabled = true ∧ full.head ≠ full.tail := ⟨full_ring, by decide, by decide⟩

theorem witness_DrainRemovesItsCause : ∃ t, exec .drain armed = .next t := ⟨_, rfl⟩

theorem witness_DrainsOncePerByteThenDisarms :
    (Inv full ∧ full.fgpc = .idle ∧ full.drainEnabled = true ∧ count full = 3) ∧
    (({ ready with uctrl := 0x28 } : State).drainEnabled = true ∧ count ready = 0) :=
  ⟨⟨witness_StepNeverFaults, by decide, by decide, by decide⟩, by decide⟩

theorem witness_TxSentStep : inFlight.udre = false ∧ ready.udre = true := by decide

theorem witness_WireFollowsTxlog :
    Inv (about .drain armed) ∧ (∃ t, step (about .drain armed) = .next t ∧ t.txlog ≠ armed.txlog) ∧
    (∃ t, step (about .drain armed) = .next t ∧ t.txdata ≠ armed.txdata) ∧
    Inv (about .txSent inFlight) ∧ inFlight.udre = false ∧
    ∃ t, step (about .txSent inFlight) = .next t ∧ t.wire ≠ inFlight.wire :=
  ⟨about_inv armed_inv _, ⟨_, rfl, by decide⟩, ⟨_, rfl, by decide⟩, about_inv inFlight_inv _, rfl, _, rfl, by decide⟩

theorem witness_FifoOrderKept :
    Inv (about .drain armed) ∧ [0x40, 0x41] = [0x40] ++ pending (about .drain armed) ∧
    ∃ t, step (about .drain armed) = .next t :=
  ⟨about_inv armed_inv _, by decide, _, rfl⟩

theorem witness_CountTellsEmptyAndFull : RingInv ready ∧ RingInv full := ⟨ready_inv.ring, full_ring⟩

theorem witness_PendingRunsFromTailToHead : RingInv full ∧ full.head ≠ full.tail := ⟨full_ring, by decide⟩

theorem witness_PipelineTransitions :
    (Inv (about .drain armed) ∧ ∃ t, step (about .drain armed) = .next t ∧ pipeline t ≠ pipeline armed) ∧
    (Inv (about .foreground (enqueuing .p4 ready)) ∧
      ∃ t, step (about .foreground (enqueuing .p4 ready)) = .next t ∧ pipeline t ≠ pipeline (enqueuing .p4 ready)) ∧
    (Inv (about .foreground written) ∧
      ∃ t, step (about .foreground written) = .next t ∧ pipeline written = .idle ∧ pipeline t = .committed) :=
  ⟨⟨about_inv armed_inv _, _, rfl, by decide⟩, ⟨about_inv enqueuing_inv.2 _, _, rfl, by decide⟩,
    about_inv written_inv _, _, rfl, by decide, by decide⟩

theorem witness_FlagsChangeOnlyAsListed :
    (∃ t, step (about .txSent inFlight) = .next t ∧ inFlight.udre = false ∧ t.udre = true) ∧
    (∃ t, step (about .drain armed) = .next t ∧ armed.udre = true ∧ t.udre = false) ∧
    (∃ t, step (about .foreground (enqueuing .p4 ready)) = .next t ∧ ready.udrie = false ∧ t.udrie = true) ∧
    (∃ t, step (about .drain { ready with uctrl := 0x28 }) = .next t ∧ t.udrie = false) ∧
    (∃ t, step (about (.writeGie true) State.reset) = .next t ∧ State.reset.gie = false ∧ t.gie = true) ∧
    (∃ t, step (about (.writeGie false) ready) = .next t ∧ ready.gie = true ∧ t.gie = false) ∧
    (∃ t, step (about .foreground { ready with fgpc := .smp .s1 }) = .next t ∧ ready.adsc = false ∧ t.adsc = true) ∧
    ∃ t, step (about (.adcDone 1023) sampling) = .next t ∧ sampling.adsc = true ∧ t.adsc = false :=
  ⟨⟨_, rfl, rfl, rfl⟩, ⟨_, rfl, rfl, rfl⟩, ⟨_, rfl, rfl, rfl⟩, ⟨_, rfl, rfl⟩, ⟨_, rfl, rfl, rfl⟩, ⟨_, rfl, rfl, rfl⟩,
    ⟨_, rfl, rfl, rfl⟩, ⟨_, rfl, rfl, rfl⟩⟩

theorem witness_SoleWriters :
    (Inv (about .drain armed) ∧ ∃ t, step (about .drain armed) = .next t ∧ t.tail ≠ armed.tail) ∧
    (Inv (about .foreground written) ∧ ∃ t, step (about .foreground written) = .next t ∧ t.head ≠ ready.head) ∧
    (Inv (about .foreground (enqueuing .p2 ready)) ∧
      ∃ t, step (about .foreground (enqueuing .p2 ready)) = .next t ∧ t.buf[1]? ≠ ready.buf[1]?) :=
  ⟨⟨about_inv armed_inv _, _, rfl, by decide⟩, ⟨about_inv written_inv _, _, rfl, by decide⟩,
    about_inv enqueuing_inv.1 _, _, rfl, by decide⟩

theorem witness_QuiescentMeansAllSent : Inv ready ∧ quiescent ready = true := ⟨ready_inv, by decide⟩

theorem witness_FullBufferWithInterruptsOffBlocks :
    (enqueuing .p1 { full with gie := false }).fgpc = .enq .p1 ∧
    (enqueuing .p1 { full with gie := false }).next = full.tail ∧
    (enqueuing .p1 { full with gie := false }).gie = false := by decide

theorem witness_PrescalerTable : (0 : Byte) ∉ [4, 8, 16, 32, 64, (128 : Byte)] ∧
    (129 : Byte) ∉ [4, 8, 16, 32, 64, (128 : Byte)] ∧ psCode 128 = some 0b111 := by decide

theorem witness_AdccfgMicroSteps :
    psCode ({ ready with arg := 128 } : State).argByte = some 0b111 ∧
    ({ ready with arg := 128, fgpc := .cfg .c0 } : State).fgpc = .cfg .c0 := by decide

theorem witness_IllegalDivisorRefused : ready.fgpc = .idle ∧ (3 : Byte) ∉ [4, 8, 16, 32, 64, (128 : Byte)] := by decide

theorem witness_AdccfgRunLeavesPostcondition :
    State.reset.portReady = true ∧ ready.portReady = true ∧ psCode 4 = some 0b010 := by decide

theorem witness_AdcsampleMicroSteps :
    ({ ready with fgpc := .smp .s0 } : State).fgpc = .smp .s0 ∧ (sampling.fgpc = .smp .s2 ∧ sampling.adsc = true) ∧
    (({ ready with fgpc := .smp .s2 } : State).fgpc = .smp .s2 ∧ ready.adsc = false) := by decide

theorem witness_SampleRefusedBeforeConfig : State.reset.fgpc = .idle ∧ State.reset.adcReady = false := by decide

theorem witness_AdcsampleRunReturnsValue :
    ready.portReady = true ∧ ready.adcReady = true ∧ ready.adsc = false := by decide

theorem witness_SampleHangsWithoutConverter :
    Inv sampling ∧ sampling.fgpc = .smp .s2 ∧ sampling.adsc = true ∧
    ∀ v, Move.adcDone v ∉ [Move.foreground, .drain, .command 0x20000] :=
  ⟨sampling_inv, rfl, rfl, fun v h => by simp at h⟩

theorem witness_AdcDoneStep : sampling.adsc = true ∧ ready.adsc = false := by decide

theorem witness_ReportSteps :
    (ready.fgpc = .idle ∧ ready.hostpc = .idle ∧ ready.adcReady = true ∧ ready.txReady = true) ∧
    (State.reset.fgpc = .idle ∧ State.reset.adcReady = false) ∧
    (({ State.reset with actrl := 0x80 } : State).adcReady = true ∧ State.reset.txReady = false) ∧
    ({ ready with hostpc := .sampling } : State).hostpc = .sampling ∧
    ({ ready with hostpc := .sending 0x0D [0x0A] } : State).hostpc = .sending 0x0D [0x0A] := by decide

theorem witness_DecimalDigits : 0 ≤ 1023 ∧ 1023 ≤ 1023 := by decide

theorem witness_ReportRunEnqueuesLine :
    Inv { ready with buf := List.replicate 64 0 } ∧ ready.portReady = true ∧ ready.adcReady = true ∧
    ready.txReady = true ∧
    count { ready with buf := List.replicate 64 0 } + (reportBytes (1023 : Sample).toNat).length < 64 :=
  ⟨⟨by constructor <;> decide, by constructor <;> decide, ⟨by decide, fun _ h => by cases h⟩,
    by constructor <;> decide, ⟨trivial, trivial, trivial, by decide⟩⟩, by decide, by decide, by decide, by decide⟩

theorem witness_HostWritesWithinContract :
    (ready.fgpc = .idle ∧ sampling.fgpc ≠ .idle ∧ sampling.str.wf = true) ∧
    (¬ inRunningString sampling (0x0100 : Half).toNat) ∧
    (inRunningString (putting .t1) (0x0102 : Half).toNat ∧ ¬ inRunningString (putting .t1) (0x0103 : Half).toNat ∧
      ¬ inRunningString (putting .t1) (0x00FF : Half).toNat) ∧
    ∃ t, step (about (.storeStr 0x0103 0x58) (putting .t1)) = .next t ∧ t.str ≠ (putting .t1).str := by
  simp only [← readsString_iff]
  exact ⟨by decide, by decide, by decide, _, rfl, by decide⟩

theorem witness_ProducerFrame :
    (∃ t, exec (.txinit 103) ready = .next t) ∧ (∃ t, exec (.txput 0x42) (enqueuing .p2 ready) = .next t) ∧
    ∃ t, exec (.txputs 0x0100) { ready with fgpc := .str .t1, arg := 0x0100, ptr := 0x0100 } = .next t :=
  ⟨⟨_, rfl⟩, ⟨_, rfl⟩, _, rfl⟩

theorem witness_SamplerFrame :
    (∃ t, exec (.adccfg 4) ready = .next t) ∧ (∃ t, exec (.adcsample 3) sampling = .next t) ∧
    ∃ t, exec (.adcDone 1023) sampling = .next t := ⟨⟨_, rfl⟩, ⟨_, rfl⟩, _, rfl⟩

theorem witness_EventAndReportFrame :
    (∃ t, exec .drain armed = .next t) ∧ (∃ t, exec .txSent inFlight = .next t) ∧
    ∃ t, exec .report ready = .next t := ⟨⟨_, rfl⟩, ⟨_, rfl⟩, _, rfl⟩

end Sys2Proof.Tests
end

section
/-! PROOF. The statements of the family 00_scope.md: what a step performs, and the index increment. -/

namespace Sys2Proof.Machine

open Sys2Proof.Safety

/-- A move that executes no instruction is the host's own write (60_exceptions.md R252). -/
theorem perform_hostWrite {m : Move} {s : State} (h : s.enabled m = true) (hi : s.instrOf m = none) :
    perform m s = .next (s.hostWrite m) := by
  simp [perform, h, hi]

/-- Settles O7: a step performs the picked move on the state with the schedule advanced, and `perform` has one law for each
of the three cases. -/
theorem stepPerformsTheNextMove : Obligations.StepPerformsTheNextMove := by
  intro s u m hpick
  have hstep : step s = perform m u := by
    obtain ⟨ms, hscript, rfl⟩ | ⟨hempty, rfl, rfl⟩ := hpick
    · exact step_of_script hscript
    · exact step_of_free hempty
  rw [hstep]
  exact ⟨perform_disabled, fun he _ hi => perform_exec he hi, perform_hostWrite⟩

/-- Settles O19: the increment without the modulus, and its bound. -/
theorem indexIncrementWraps : Obligations.IndexIncrementWraps := by
  intro n i h2 h256 hi
  have h0 : 0 < n := by omega
  have hlast : i.toNat = n - 1 ↔ i.toNat + 1 = n := by omega
  exact ⟨by simpa only [hlast] using incMod_cases h0 h256 hi, incMod_lt h0 h256 i⟩

end Sys2Proof.Machine
end

section
/-! PROOF. The statements of the family 10_state.md on the reset state and on the ring buffer's counters. -/

namespace Sys2Proof.Safety

open Sys2Proof.Machine

/-! ### The reset state -/

/-- Settles O8: each value is read off `State.reset`. -/
theorem resetValues : Obligations.ResetValues := by
  unfold Obligations.ResetValues
  decide

/-- The state of 10_state.md R49 has its values, `STR` empty. -/
theorem resetLike_reset : ResetLike State.reset := by
  constructor <;> decide

/-- The ring buffer at reset: both indices 0, the foreground at no label of an enqueue. -/
theorem ResetLike.ringInv {s : State} (h : ResetLike s) : RingInv s where
  size := h.size
  head := by rw [h.head]; exact Nat.lt_of_lt_of_le Nat.two_pos h.size.1
  tail := by rw [h.tail]; exact Nat.lt_of_lt_of_le Nat.two_pos h.size.1
  next := by simp [h.fgpc, holdsNext]
  room := by simp [h.fgpc, holdsSlot]
  slot := by simp [h.fgpc]

/-- The transmit side at reset: `UDRE` is 1 and both histories are empty, and the buffer is empty. -/
theorem ResetLike.txInv {s : State} (h : ResetLike s) : TxInv s where
  masked := by simp [h.fgpc, masksInterrupts]
  initialising := by simp [h.fgpc, afterArmOff]
  log := by
    have hu : s.udre = true := by rw [State.udre, h.ustat]; decide
    rw [hu, h.txlog, h.wire]; rfl
  committed hc := absurd (h.head.trans h.tail.symm) ((pipeline_committed_iff s).1 hc).2
  ready := by simp [h.fgpc, isPutting]

theorem ResetLike.inv {s : State} (h : ResetLike s) : Inv s where
  ring := h.ringInv
  tx := h.txInv
  adc := ⟨by simp [h.adsc], by simp [h.fgpc]⟩
  reserved := ⟨by rw [h.uctrl]; decide, by rw [h.ustat]; decide, h.amux, h.actrl⟩
  command := ⟨by simp [argFits, h.fgpc], by simp [stringEnds, h.fgpc], by simp [hostFits, h.hostpc], h.str⟩

/-- Settles O10: the clauses of the invariant one by one from the reset values. -/
theorem resetMeetsInvariant : Obligations.ResetMeetsInvariant :=
  ⟨List.length_replicate, resetLike_reset, fun _ => ResetLike.inv⟩

/-! ### The ring buffer's counters -/

theorem RingInv.slots_pos {s : State} (hi : RingInv s) : 0 < s.rbN := Nat.lt_of_lt_of_le Nat.two_pos hi.size.1

/-- `COUNT` is one less than the number of slots exactly on a full buffer (10_state.md R26, R27). -/
theorem count_eq_pred_iff {s : State} (hi : RingInv s) : count s = s.rbN - 1 ↔ incMod s.rbN s.head = s.tail := by
  have hsize := hi.size
  have hh := hi.head
  have ht := hi.tail
  rw [BitVec.toNat_eq, incMod_cases hi.slots_pos hsize.2 hh, count_eq hh ht]
  split <;> split <;> omega

/-- `COUNT` is 0 exactly on an empty buffer (10_state.md R25, R27). -/
theorem count_eq_zero_iff {s : State} (hi : RingInv s) : count s = 0 ↔ s.head = s.tail := by
  have hh := hi.head
  have ht := hi.tail
  rw [BitVec.toNat_eq, count_eq hh ht]
  split <;> omega

theorem count_lt {s : State} (hi : RingInv s) : count s < s.rbN := by
  have hh := hi.head
  have ht := hi.tail
  rw [count_eq hh ht]
  split <;> omega

/-- Settles O38: `COUNT` against its two extremes, 0 on empty and one slot less than all on full. -/
theorem countTellsEmptyAndFull : Obligations.CountTellsEmptyAndFull := fun s hi =>
  ⟨pending_length s, Nat.le_sub_one_of_lt (count_lt hi), count_eq_zero_iff hi, count_eq_pred_iff hi⟩

/-- The slot at an index in range, read with a default. -/
theorem readSlot_eq_getD {s : State} {i : Byte} (h : i.toNat < s.rbN) :
    s.readSlot i = some (s.buf.getD i.toNat 0) := by
  rw [State.readSlot_of_lt h, List.getD_eq_getElem _ _ h]

/-- Settles O39: the first byte by what an emission takes, the last by where the last pending slot lies. -/
theorem pendingRunsFromTailToHead : Obligations.PendingRunsFromTailToHead := by
  intro s hi hne
  have hpos : 0 < count s := Nat.pos_of_ne_zero fun h => hne ((count_eq_zero_iff hi).1 h)
  constructor
  · rw [pending_emit hi hne, List.head?_cons, readSlot_eq_getD (incMod_lt hi.slots_pos hi.size.2 _)]
  · rw [readSlot_eq_getD hi.head, ← pendingSlot_last hi.head hi.tail hpos, List.getLast?_eq_getElem?,
      pending_length]
    simp [pending, hpos]

end Sys2Proof.Safety
end

section
/-! PROOF. Which move changes which flag and which field of the ring buffer: one law per flag and field over the changes
of `MovedBy`, and the statements on the flags, on readiness and on the sole writers. -/

namespace Sys2Proof.Machine

open Sys2Proof.Safety

section
variable {s t : State} {m : Move}

/-- The trigger of `DRAIN` (41_tx_drain.md R150). -/
theorem State.drainEnabled_iff (s : State) :
    s.drainEnabled = true ↔ s.gie = true ∧ s.udrie = true ∧ s.udre = true := by
  simp [State.drainEnabled, and_assoc]

/-! ### The flags

Each law says: the flag keeps its value, or one of the steps listed in 10_state.md R46 sets it, or one clears it. -/

/-- What such a law says of the old value `a` and the new value `b`. -/
theorem set_and_cleared {a b : Bool} {P Q : Prop} (h : b = a ∨ (P ∧ b = true) ∨ (Q ∧ b = false)) :
    (a = false → b = true → P) ∧ (a = true → b = false → Q) := by
  obtain rfl | ⟨hP, rfl⟩ | ⟨hQ, rfl⟩ := h
  · cases b <;> simp
  · simp [hP]
  · simp [hQ]

theorem MovedBy.udre_cases (h : MovedBy s m t) :
    t.udre = s.udre ∨ (m = .txSent ∧ t.udre = true) ∨ (m = .drain ∧ t.udre = false) := by
  cases h with
  | byteSent => exact .inr (.inl ⟨rfl, State.byteSent_udre s⟩)
  | emit => exact .inr (.inr ⟨rfl, State.writeTxdata_udre _ _⟩)
  | _ => exact .inl rfl

theorem MovedBy.udrie_cases (h : MovedBy s m t) :
    t.udrie = s.udrie ∨ ((m = .foreground ∧ s.fgpc = .enq .p4) ∧ t.udrie = true) ∨
    (((m = .drain ∧ s.head = s.tail) ∨ (m = .foreground ∧ s.fgpc = .init .i2)) ∧ t.udrie = false) := by
  cases h with
  | p4Retire hf | p4Return hf => exact .inr (.inl ⟨⟨rfl, hf⟩, State.setUdrie_udrie s true⟩)
  | disarm _ he => exact .inr (.inr ⟨.inl ⟨rfl, he⟩, State.setUdrie_udrie s false⟩)
  | i2 hf => exact .inr (.inr ⟨.inr ⟨rfl, hf⟩, State.setUdrie_udrie _ false⟩)
  | _ => exact .inl rfl

theorem MovedBy.gie_cases (h : MovedBy s m t) :
    t.gie = s.gie ∨
    (((m = .foreground ∧ s.fgpc = .init .i5) ∨ (m = .writeGie true ∧ s.fgpc = .idle)) ∧ t.gie = true) ∨
    (((m = .foreground ∧ s.fgpc = .init .i0) ∨ (m = .writeGie false ∧ s.fgpc = .idle)) ∧ t.gie = false) := by
  cases h with
  | i5 hf => exact .inr (.inl ⟨.inl ⟨rfl, hf⟩, rfl⟩)
  | i0 hf => exact .inr (.inr ⟨.inl ⟨rfl, hf⟩, rfl⟩)
  | writeGie b hf =>
    cases b with
    | true => exact .inr (.inl ⟨.inr ⟨rfl, hf⟩, rfl⟩)
    | false => exact .inr (.inr ⟨.inr ⟨rfl, hf⟩, rfl⟩)
  | _ => exact .inl rfl

/-- The field writes of `C1` keep `ADSC` (00_scope.md R13). -/
theorem MovedBy.adsc_cases (h : MovedBy s m t) :
    t.adsc = s.adsc ∨ ((m = .foreground ∧ s.fgpc = .smp .s1) ∧ t.adsc = true) ∨
    ((∃ v, m = .adcDone v) ∧ t.adsc = false) := by
  cases h with
  | c1 code => exact .inl ((State.setAdps_adsc _ code).trans (State.setAden_adsc s true))
  | s1 hf => exact .inr (.inl ⟨⟨rfl, hf⟩, State.setAdsc_adsc s true⟩)
  | conversionDone v => exact .inr (.inr ⟨⟨v, rfl⟩, State.conversionDone_adsc s v⟩)
  | _ => exact .inl rfl

/-- `UCTRL.TXEN` is written by `I2` only, which sets it; the writes of `UDRIE` keep it (40_tx_producer.md R121). -/
theorem MovedBy.txen_cases (h : MovedBy s m t) : t.txen = s.txen ∨ (t.txen = true ∧ t.fgpc = .init .i3) := by
  cases h with
  | i2 => exact .inr ⟨(State.setUdrie_txen _ false).trans (State.setTxen_txen s true), rfl⟩
  | p4Retire | p4Return => exact .inl (State.setUdrie_txen s true)
  | disarm => exact .inl (State.setUdrie_txen s false)
  | _ => exact .inl rfl

/-- `ACTRL.ADEN` is written by `C1` only, which sets it; the writes of `ADSC` keep it (42_adc_sampler.md R181). -/
theorem MovedBy.aden_cases (h : MovedBy s m t) :
    t.aden = s.aden ∨ (t.aden = true ∧ m = .foreground ∧ s.fgpc = .cfg .c1) := by
  cases h with
  | c1 code hf => exact .inr ⟨(State.setAdps_aden _ code).trans (State.setAden_aden s true), rfl, hf⟩
  | s1 => exact .inl (State.setAdsc_aden s true)
  | conversionDone v => exact .inl (State.conversionDone_aden s v)
  | _ => exact .inl rfl

/-! ### The sole writers -/

/-- `HEAD` is written at `P3` and `I4` only (10_state.md R22). -/
theorem MovedBy.head_cases (h : MovedBy s m t) :
    t.head = s.head ∨ (m = .foreground ∧ (s.fgpc = .enq .p3 ∨ s.fgpc = .init .i4)) := by
  cases h with
  | p3 hf => exact .inr ⟨rfl, .inl hf⟩
  | i4 hf => exact .inr ⟨rfl, .inr hf⟩
  | _ => exact .inl rfl

/-- `TAIL` is written by `DRAIN` and at `I4` only (10_state.md R23). -/
theorem MovedBy.tail_cases (h : MovedBy s m t) :
    t.tail = s.tail ∨ m = .drain ∨ (m = .foreground ∧ s.fgpc = .init .i4) := by
  cases h with
  | emit => exact .inr (.inl rfl)
  | i4 hf => exact .inr (.inr ⟨rfl, hf⟩)
  | _ => exact .inl rfl

/-- The slots are written at `P2` only, and there only the slot `NEXT` (10_state.md R29). -/
theorem MovedBy.buf_cases (h : MovedBy s m t) :
    t.buf = s.buf ∨ (m = .foreground ∧ s.fgpc = .enq .p2 ∧ t.buf = s.buf.set s.next.toNat s.byte) := by
  cases h with
  | p2 hf => exact .inr ⟨rfl, hf, rfl⟩
  | _ => exact .inl rfl

/-- No move changes the number of slots. -/
theorem Moved.rbN_eq (h : Moved s t) : t.rbN = s.rbN := by
  cases h with
  | p2 => exact List.length_set
  | _ => rfl

/-! ### Readiness -/

theorem State.txReady_iff (s : State) : s.txReady = true ↔ s.txen = true ∧ ¬ ∃ k, s.fgpc = .init k := by
  unfold State.txReady
  cases s.fgpc <;> simp

theorem State.adcReady_iff (s : State) : s.adcReady = true ↔ s.aden = true ∧ ¬ ∃ k, s.fgpc = .cfg k := by
  unfold State.adcReady
  cases s.fgpc <;> simp

/-- The labels of `TXINIT` are entered at its acceptance only and left by `I5` only (40_tx_producer.md R121). -/
theorem MovedBy.init_cases (h : MovedBy s m t) :
    ((∃ k, t.fgpc = .init k) ↔ ∃ k, s.fgpc = .init k) ∨ t.fgpc = .init .i0 ∨
    (m = .foreground ∧ s.fgpc = .init .i5) := by
  cases h with
  | acceptInit => exact .inr (.inl rfl)
  | i5 hf => exact .inr (.inr ⟨rfl, hf⟩)
  | _ => exact .inl (by simp_all)

/-- The labels of `ADCCFG` are entered at its acceptance only and left by `C1` only (42_adc_sampler.md R181). -/
theorem MovedBy.cfg_cases (h : MovedBy s m t) :
    ((∃ k, t.fgpc = .cfg k) ↔ ∃ k, s.fgpc = .cfg k) ∨ t.fgpc = .cfg .c0 ∨ (m = .foreground ∧ s.fgpc = .cfg .c1) := by
  cases h with
  | acceptCfg => exact .inr (.inl rfl)
  | c1 _ hf => exact .inr (.inr ⟨rfl, hf⟩)
  | _ => exact .inl (by simp_all)

/-- `TX_READY` is set by `I5` and cleared by the acceptance of a `TXINIT`; `I2`, which sets `TXEN`, stands between. -/
theorem MovedBy.txReady_cases (h : MovedBy s m t) :
    t.txReady = s.txReady ∨ ((m = .foreground ∧ s.fgpc = .init .i5) ∧ t.txReady = true) ∨
    (t.fgpc = .init .i0 ∧ t.txReady = false) := by
  obtain hlabel | hacc | hret := h.init_cases
  · obtain hen | ⟨-, hi3⟩ := h.txen_cases
    · exact .inl (by rw [Bool.eq_iff_iff, State.txReady_iff, State.txReady_iff, hlabel, hen])
    · have hbusy : ∃ k, s.fgpc = .init k := hlabel.1 ⟨_, hi3⟩
      exact .inl (by rw [Bool.eq_iff_iff, State.txReady_iff, State.txReady_iff, hlabel]; simp [hbusy])
  · exact .inr (.inr ⟨hacc, by simp [State.txReady, hacc]⟩)
  · cases ht : t.txReady with
    | false => exact .inl (by simp [State.txReady, hret.2])
    | true => exact .inr (.inl ⟨hret, rfl⟩)

/-- `ADC_READY` is set by `C1`, which sets `ADEN`, and cleared by the acceptance of an `ADCCFG`. -/
theorem MovedBy.adcReady_cases (h : MovedBy s m t) :
    t.adcReady = s.adcReady ∨ ((m = .foreground ∧ s.fgpc = .cfg .c1) ∧ t.adcReady = true) ∨
    (t.fgpc = .cfg .c0 ∧ t.adcReady = false) := by
  obtain hlabel | hacc | hret := h.cfg_cases
  · obtain hen | ⟨-, hm, hc1⟩ := h.aden_cases
    · exact .inl (by rw [Bool.eq_iff_iff, State.adcReady_iff, State.adcReady_iff, hlabel, hen])
    · have hbusy : ∃ k, s.fgpc = .cfg k := ⟨_, hc1⟩
      exact .inl (by rw [Bool.eq_iff_iff, State.adcReady_iff, State.adcReady_iff, hlabel]; simp [hbusy])
  · exact .inr (.inr ⟨hacc, by simp [State.adcReady, hacc]⟩)
  · cases ht : t.adcReady with
    | false => exact .inl (by simp [State.adcReady, hret.2])
    | true => exact .inr (.inl ⟨hret, rfl⟩)

end

/-! ### The statements -/

/-- Settles O41: the laws of the four flags, read at the move the step picks. -/
theorem flagsChangeOnlyAsListed : Obligations.FlagsChangeOnlyAsListed := by
  intro s t hstep
  obtain ⟨ms, n, h⟩ := step_movedBy hstep
  obtain ⟨udre_set, udre_cleared⟩ := set_and_cleared h.udre_cases
  obtain ⟨udrie_set, udrie_cleared⟩ := set_and_cleared h.udrie_cases
  obtain ⟨gie_set, gie_cleared⟩ := set_and_cleared h.gie_cases
  obtain ⟨adsc_set, adsc_cleared⟩ := set_and_cleared h.adsc_cases
  exact ⟨udre_set, udre_cleared, udrie_set, udrie_cleared, gie_set, gie_cleared, adsc_set, adsc_cleared⟩

/-- Settles O14: the laws of the two readiness predicates, read at the move the step picks. -/
theorem readinessComesFromInitialisation : Obligations.ReadinessComesFromInitialisation := by
  intro s t hstep
  obtain ⟨ms, n, h⟩ := step_movedBy hstep
  obtain ⟨tx_gained, tx_lost⟩ := set_and_cleared h.txReady_cases
  obtain ⟨adc_gained, adc_lost⟩ := set_and_cleared h.adcReady_cases
  exact ⟨tx_gained, tx_lost, adc_gained, adc_lost⟩

/-- Settles O42: the laws of `HEAD`, `TAIL` and the slots; at `I4` the invariant has interrupts off. -/
theorem soleWriters : Obligations.SoleWriters := by
  intro s t hi hstep
  obtain ⟨_, _, hmoved⟩ := step_moved hstep
  obtain ⟨ms, n, h⟩ := step_movedBy hstep
  refine ⟨h.head_cases.resolve_left, fun hne => ?_, fun k hne => ?_, hmoved.rbN_eq⟩
  · obtain hdrain | ⟨hm, hf⟩ := h.tail_cases.resolve_left hne
    · exact .inl hdrain
    · exact .inr ⟨hm, hf, hi.tx.masked (by rw [show s.fgpc = _ from hf]; rfl)⟩
  · obtain hbuf | ⟨hm, hf, hbuf⟩ := h.buf_cases
    · exact absurd (congrArg (·[k]?) hbuf) hne
    · refine ⟨hm, hf, by_contra fun hk => hne ?_⟩
      rw [hbuf]
      exact List.getElem?_set_ne (Ne.symm hk)

end Sys2Proof.Machine
end

section
/-! PROOF. Every step keeps the invariant: each clause is followed along every change of `Moved`. A change that leaves
`FGPC` in place keeps a clause about the foreground because it keeps the fields the clause reads. -/

namespace Sys2Proof.Safety

open Sys2Proof.Machine

section
variable {s t : State}

/-! ### The ring buffer -/

/-- `HEAD` takes the value of `NEXT` at `P3`, which is an index of the buffer, and 0 at `I4`. -/
theorem moved_head_lt (h : Moved s t) (hi : RingInv s) : t.head.toNat < t.rbN := by
  rw [h.rbN_eq]
  cases h with
  | p3 hf =>
    have hn := hi.next (by rw [hf]; rfl)
    simpa only [hn] using incMod_lt hi.slots_pos hi.size.2 s.head
  | i4 => exact hi.slots_pos
  | _ => exact hi.head

/-- `TAIL` advances by `inc_mod` in a `DRAIN` that emits, and becomes 0 at `I4`. -/
theorem moved_tail_lt (h : Moved s t) (hi : RingInv s) : t.tail.toNat < t.rbN := by
  rw [h.rbN_eq]
  cases h with
  | emit => exact incMod_lt hi.slots_pos hi.size.2 s.tail
  | i4 => exact hi.slots_pos
  | _ => exact hi.tail

/-- `NEXT` is computed at `P0`, and no other agent writes `HEAD` before `P3` does (40_tx_producer.md R127). -/
theorem moved_next (h : Moved s t) (hi : RingInv s) (hf : holdsNext t.fgpc = true) : t.next = incMod t.rbN t.head := by
  rw [h.rbN_eq]
  cases h with
  | p0 => rfl
  | p1 hk | p2 hk => exact hi.next (by rw [hk]; rfl)
  | same | disarm | emit | byteSent | conversionDone | reportDecide | writeGie | storeStr => exact hi.next hf
  | _ => simp [holdsNext] at hf

theorem holdsNext_of_holdsSlot {l : Fgpc} (h : holdsSlot l = true) : holdsNext l = true := by
  revert h
  unfold holdsSlot
  split <;> simp [holdsNext]

/-- The slot found free at `P1` stays free: a `DRAIN` only moves `TAIL` away from it (40_tx_producer.md R127). -/
theorem moved_room (h : Moved s t) (hi : RingInv s) (hf : holdsSlot t.fgpc = true) : t.next ≠ t.tail := by
  cases h with
  | p1 _ hne => exact hne
  | p2 hk => exact hi.room (by rw [hk]; rfl)
  | emit b _ hne =>
    have hn : s.next = incMod s.rbN s.head := hi.next (holdsNext_of_holdsSlot hf)
    intro he
    exact hne (incMod_inj hi.slots_pos hi.size.2 hi.head hi.tail (hn.symm.trans he))
  | same | disarm | byteSent | conversionDone | reportDecide | writeGie | storeStr => exact hi.room hf
  | _ => simp [holdsSlot] at hf

/-- The slot written at `P2` holds the byte until `P3` commits it. -/
theorem moved_slot (h : Moved s t) (hi : RingInv s) (hf : t.fgpc = .enq .p3) : t.readSlot t.next = some t.byte := by
  cases h with
  | p2 _ hlt => exact List.getElem?_set_self hlt
  | same | disarm | emit | byteSent | conversionDone | reportDecide | writeGie | storeStr => exact hi.slot hf
  | _ => simp at hf

theorem moved_ringInv (h : Moved s t) (hi : RingInv s) : RingInv t where
  size := by rw [h.rbN_eq]; exact hi.size
  head := moved_head_lt h hi
  tail := moved_tail_lt h hi
  next := moved_next h hi
  room := moved_room h hi
  slot := moved_slot h hi

/-! ### The transmit side -/

/-- `GIE` is 0 from `I0` on; the host writes it at `IDLE` only (10_state.md R37; 40_tx_producer.md R121). -/
theorem moved_masked (h : Moved s t) (hi : TxInv s) (hf : masksInterrupts t.fgpc = true) : t.gie = false := by
  cases h with
  | i0 => rfl
  | i1 hk | i2 hk | i3 hk | i4 hk => exact hi.masked (by rw [hk]; rfl)
  | writeGie b hk => rw [hk] at hf; cases hf
  | same | disarm | emit | byteSent | conversionDone | reportDecide | storeStr => exact hi.masked hf
  | _ => simp [masksInterrupts] at hf

/-- `I2` sets `TXEN` and clears `UDRIE`; nothing before the end of `TXINIT` changes either. -/
theorem moved_initialising (h : Moved s t) (hi : TxInv s) (hf : afterArmOff t.fgpc = true) :
    t.txen = true ∧ t.udrie = false := by
  cases h with
  | i2 => exact ⟨(State.setUdrie_txen _ false).trans (State.setTxen_txen s true), State.setUdrie_udrie _ false⟩
  | i3 hk | i4 hk => exact hi.initialising (by rw [hk]; rfl)
  | disarm => exact ⟨(State.setUdrie_txen s false).trans (hi.initialising hf).1, State.setUdrie_udrie s false⟩
  | same | emit | byteSent | conversionDone | reportDecide | writeGie | storeStr => exact hi.initialising hf
  | _ => simp [afterArmOff] at hf

/-- `DRAIN` emits only with no byte in flight, and `TX_SENT` sends only the byte in flight (41_tx_drain.md R160). -/
theorem moved_log (h : Moved s t) (hi : TxInv s) : t.txlog = if t.udre then t.wire else t.wire ++ [t.txdata] := by
  have hlog := hi.log
  cases h with
  | emit b hen =>
    obtain ⟨-, -, hu⟩ := s.drainEnabled_iff.1 hen
    rw [hu] at hlog
    rw [State.writeTxdata_udre]
    exact congrArg (· ++ [b]) hlog
  | byteSent hu =>
    rw [hu] at hlog
    rw [State.byteSent_udre]
    exact hlog
  | _ => exact hlog

/-- `COMMITTED` is entered at `P3` and at `I2`, and left at `P4` and `I4` (41_tx_drain.md R165, R166). -/
theorem moved_committed (h : Moved s t) (hi : TxInv s) (hc : pipeline t = .committed) :
    mayBeCommitted t.fgpc = true := by
  have hs := hi.committed
  rw [pipeline_committed_iff] at hc hs
  obtain ⟨hoff, hne⟩ := hc
  cases h with
  | i2 | i3 | p3 => rfl
  | i4 => exact absurd rfl hne
  | p4Retire | p4Return => exact absurd ((State.setUdrie_udrie s true).symm.trans hoff) (by decide)
  | disarm _ he => exact absurd he hne
  | emit _ hen => exact absurd ((s.drainEnabled_iff.1 hen).2.1.symm.trans hoff) (by decide)
  | same | byteSent | conversionDone | reportDecide | writeGie | storeStr => exact hs ⟨hoff, hne⟩
  | _ =>
    have hlabel := hs ⟨hoff, hne⟩
    simp_all [mayBeCommitted]

/-- `TXPUT` and `TXPUTS` are accepted with `TX_READY` only, and no step clears `TXEN` (10_state.md R50). -/
theorem moved_ready (h : Moved s t) (hi : TxInv s) (hf : isPutting t.fgpc = true) : t.txen = true := by
  cases h with
  | acceptPut _ _ _ hr | acceptPuts _ _ _ hr | reportPut _ _ _ _ hr => exact (s.txReady_iff.1 hr).1
  | p0 hk | p1 hk | p2 hk | p3 hk | t0 hk | t1Enqueue hk | t2 hk => exact hi.ready (by rw [hk]; rfl)
  | p4Return hk => exact (State.setUdrie_txen s true).trans (hi.ready (by rw [hk]; rfl))
  | disarm => exact (State.setUdrie_txen s false).trans (hi.ready hf)
  | same | emit | byteSent | conversionDone | reportDecide | writeGie | storeStr => exact hi.ready hf
  | _ => simp [isPutting] at hf

theorem moved_txInv (h : Moved s t) (hi : TxInv s) : TxInv t where
  masked := moved_masked h hi
  initialising := moved_initialising h hi
  log := moved_log h hi
  committed := moved_committed h hi
  ready := moved_ready h hi

/-! ### The converter side -/

/-- `S1` starts a conversion and goes to `S2`; `S2` is left with `ADSC` 0 only (42_adc_sampler.md R193). -/
theorem moved_converting (h : Moved s t) (hi : AdcInv s) (ha : t.adsc = true) : t.fgpc = .smp .s2 := by
  cases h with
  | s1 => rfl
  | s2 _ hz => exact absurd (hz.symm.trans ha) (by decide)
  | conversionDone v => exact absurd ((State.conversionDone_adsc s v).symm.trans ha) (by decide)
  | c1 code hk =>
    have hs : s.adsc = true := ((State.setAdps_adsc _ code).trans (State.setAden_adsc s true)).symm.trans ha
    exact absurd (hk.symm.trans (hi.converting hs)) (by decide)
  | same | disarm | emit | byteSent | reportDecide | writeGie | storeStr => exact hi.converting ha
  | _ =>
    have hlabel := hi.converting ha
    simp_all

/-- `ADCSAMPLE` is accepted with `ADC_READY` only, and no step clears `ADEN` (10_state.md R50). -/
theorem moved_sampling (h : Moved s t) (hi : AdcInv s) (k : SmpLabel) (hf : t.fgpc = .smp k) : t.aden = true := by
  cases h with
  | acceptSample _ _ _ hr | reportSample _ _ hr => exact (s.adcReady_iff.1 hr).1
  | s0 hk | s2 hk => exact hi.ready _ hk
  | s1 hk => exact (State.setAdsc_aden s true).trans (hi.ready _ hk)
  | conversionDone v => exact (State.conversionDone_aden s v).trans (hi.ready k hf)
  | same | disarm | emit | byteSent | reportDecide | writeGie | storeStr => exact hi.ready k hf
  | _ => simp at hf

/-! ### The reserved bits -/

/-- No write of a flag or a field touches a reserved bit (00_scope.md R13). -/
theorem moved_reservedInv (h : Moved s t) (hi : ReservedInv s) : ReservedInv t := by
  obtain ⟨huctrl, hustat, hamux, hactrl⟩ := hi
  cases h with
  | i2 =>
    exact ⟨(and_withFlag_other _ _ _ _ (by decide)).trans
      ((and_withFlag_other _ _ _ _ (by decide)).trans huctrl), hustat, hamux, hactrl⟩
  | p4Retire | p4Return | disarm => exact ⟨(and_withFlag_other _ _ _ _ (by decide)).trans huctrl, hustat, hamux, hactrl⟩
  | emit | byteSent => exact ⟨huctrl, (and_withFlag_other _ _ _ _ (by decide)).trans hustat, hamux, hactrl⟩
  | c0 | s0 => exact ⟨huctrl, hustat, (and_withField_other _ _ _ _ (by decide)).trans hamux, hactrl⟩
  | c1 =>
    exact ⟨huctrl, hustat, hamux, (and_withField_other _ _ _ _ (by decide)).trans
      ((and_withFlag_other _ _ _ _ (by decide)).trans hactrl)⟩
  | s1 | conversionDone => exact ⟨huctrl, hustat, hamux, (and_withFlag_other _ _ _ _ (by decide)).trans hactrl⟩
  | _ => exact ⟨huctrl, hustat, hamux, hactrl⟩

/-! ### The command in progress, its string and the host -/

/-- A latched operand keeps its own range (30_encoding.md R92). -/
theorem setWidth_toNat_lt {n : Nat} (x : BitVec n) : (x.setWidth 16).toNat < 2 ^ n := by
  rw [BitVec.toNat_setWidth]
  exact Nat.lt_of_le_of_lt (Nat.mod_le _ _) x.isLt

/-- The factor that `ADCCFG` latches is the one it reads back (30_encoding.md R106). -/
theorem argByte_latch (s : State) (b : Byte) (l : Fgpc) : (s.latch (b.setWidth 16) l).argByte = b := by
  show (b.setWidth 16).extractLsb' 0 8 = b
  rw [← BitVec.setWidth_eq_extractLsb' (by decide)]
  simp

theorem moved_argFits (h : Moved s t) (hi : argFits s) : argFits t := by
  cases h with
  | acceptInit bd => exact setWidth_toNat_lt bd
  | acceptPut b | reportPut b => exact .inr (setWidth_toNat_lt b)
  | acceptPuts => rfl
  | acceptCfg df _ _ hps => exact ⟨setWidth_toNat_lt df, by rw [argByte_latch]; exact hps⟩
  | acceptSample | reportSample => exact setWidth_toNat_lt _
  | t1Enqueue hk => exact .inl (by simpa [argFits, hk] using hi)
  | p4Return _ hins => exact hins
  | i0 hk | i1 hk | i2 hk | i3 hk | i4 hk | p0 hk | p1 hk | p2 hk | p3 hk | t0 hk | t2 hk | c0 hk | s0 hk | s1 hk
  | s2 hk =>
    rw [argFits, hk] at hi
    exact hi
  | same | disarm | emit | byteSent | conversionDone | reportDecide | writeGie | storeStr => exact hi
  | i5 | p4Retire | t1Retire | c1 | s3 => trivial

/-- A write the host may make leaves what is left of the running string as it is (20_memory.md R79). -/
theorem stringEnds_storeStr {a : Half} {v : Byte} (hout : s.readsString a = false) (hi : stringEnds s) :
    stringEnds { s with str := s.str.write a.toNat v } := by
  have outside (hp : s.inProgress = some (.txputs s.arg)) : s.str.inString s.arg.toNat a.toNat = false := by
    simpa only [State.readsString, hp] using hout
  cases hk : s.fgpc with
  | str k =>
    have hw := outside (by simp [State.inProgress, hk])
    rw [stringEnds, hk] at hi
    cases k with
    | t0 | t1 | t2 => simpa only [stringEnds, hk] using stringFrom_write v hi hw
  | enq k =>
    rw [stringEnds, hk] at hi
    simp only [stringEnds, hk]
    intro hins
    exact stringFrom_write v (hi hins) (outside (by simp [State.inProgress, hk, hins]))
  | _ => simp [stringEnds, hk]

theorem moved_stringEnds (h : Moved s t) (hi : stringEnds s) : stringEnds t := by
  cases h with
  | acceptPuts p _ _ _ hterm => exact ⟨Nat.le_refl _, by rw [Nat.sub_self]; rfl, hterm⟩
  | t0 hk | p0 hk | p1 hk | p2 hk | p3 hk =>
    rw [stringEnds, hk] at hi
    exact hi
  | t1Enqueue hk hne =>
    rw [stringEnds, hk] at hi
    exact fun _ => (stringFrom_next hi hne).1
  | p4Return hk hins =>
    rw [stringEnds, hk] at hi
    exact hi hins
  | t2 hk =>
    rw [stringEnds, hk] at hi
    have hadd : (s.ptr + 1).toNat = s.ptr.toNat + 1 :=
      (BitVec.toNat_add s.ptr 1).trans (Nat.mod_eq_of_lt (stringFrom_lt hi))
    show stringFrom s.str s.arg.toNat (s.ptr + 1).toNat
    rw [hadd]
    exact hi
  | acceptPut | reportPut => exact fun hins => by cases hins
  | storeStr _ _ hout => exact stringEnds_storeStr hout hi
  | same | disarm | emit | byteSent | conversionDone | reportDecide | writeGie => exact hi
  | _ => trivial

theorem hostFits_of_hostpc_idle (h : s.hostpc = .idle) : hostFits s := by
  rw [hostFits, h]; trivial

/-- Between two commands the host may stand anywhere in `REPORT`. -/
theorem hostFits_of_fgpc_idle (h : s.fgpc = .idle) : hostFits s := by
  unfold hostFits
  split
  · trivial
  · exact .inl h
  · exact .inl h

theorem moved_hostFits (h : Moved s t) (hi : hostFits s) : hostFits t := by
  cases h with
  | acceptInit _ _ hh | acceptPut _ _ hh | acceptPuts _ _ hh | acceptCfg _ _ hh | acceptSample _ _ hh =>
    exact hostFits_of_hostpc_idle hh
  | i5 | p4Retire | t1Retire | c1 | s3 => exact hostFits_of_fgpc_idle rfl
  | reportDecide hk | writeGie _ hk => exact hostFits_of_fgpc_idle hk
  | reportSample => exact .inr ⟨_, rfl⟩
  | reportPut c rest =>
    cases rest with
    | nil => trivial
    | cons c' rest' => exact .inr ⟨_, rfl, rfl⟩
  | same | disarm | emit | byteSent | conversionDone | storeStr => exact hi
  | _ =>
    unfold hostFits at hi
    split at hi
    · exact hostFits_of_hostpc_idle ‹_›
    · simp_all [hostFits]
    · simp_all [hostFits]

/-- Only the host writes `STR` (20_memory.md R63). -/
theorem moved_str_wf (h : Moved s t) (hi : s.str.wf = true) : t.str.wf = true := by
  cases h with
  | storeStr a v => exact Memory.wf_write hi a v
  | _ => exact hi

theorem moved_inv (h : Moved s t) (hi : Inv s) : Inv t where
  ring := moved_ringInv h hi.ring
  tx := moved_txInv h hi.tx
  adc := ⟨moved_converting h hi.adc, moved_sampling h hi.adc⟩
  reserved := moved_reservedInv h hi.reserved
  command :=
    { arg := moved_argFits h hi.command.arg
      string := moved_stringEnds h hi.command.string
      host := moved_hostFits h hi.command.host
      str := moved_str_wf h hi.command.str }

end

/-- Settles O11: picking the move does not touch the invariant, and each change of `Moved` keeps each clause. -/
theorem everyStepKeepsInvariant : Obligations.EveryStepKeepsInvariant := by
  intro s t hi hstep
  obtain ⟨ms, n, h⟩ := step_moved hstep
  exact moved_inv h (inv_schedule hi ms n)

end Sys2Proof.Safety
end

section
/-! PROOF. The statements of the family 20_memory.md: exactly when a meaning faults, that the slots an enqueue and a
`DRAIN` access exist in every state of the invariant, and that no step from such a state faults. -/

namespace Sys2Proof.Machine

open Sys2Proof.Safety

section
variable {s : State} {f : Fault}

/-! ### When a meaning faults

The counterpart of the inversion lemmas for a next state. There is one fault, so the statements hold for any `f`. -/

/-- Of the micro-steps of an enqueue only the slot write at `P2` can fault (20_memory.md R61). -/
theorem enqueueStep_fault_iff {k : EnqLabel} :
    enqueueStep k s = .fault f ↔ k = .p2 ∧ s.rbN ≤ s.next.toNat := by
  cases k with
  | p0 | p3 | p4 => simp [enqueueStep]
  | p1 => by_cases hfull : s.next = s.tail <;> simp [enqueueStep, hfull]
  | p2 =>
    obtain hlt | hge := Nat.lt_or_ge s.next.toNat s.rbN
    · simp [enqueueStep, State.writeSlot_of_lt s.byte hlt, hlt]
    · simp [enqueueStep, State.writeSlot_of_ge s.byte hge, hge]

/-- `DRAIN` can fault only where it reads the slot after `TAIL` (20_memory.md R61; 41_tx_drain.md R152). -/
theorem drainAction_fault_iff :
    s.drainAction = .fault f ↔ s.head ≠ s.tail ∧ s.readSlot (incMod s.rbN s.tail) = none := by
  by_cases he : s.head = s.tail
  · simp [State.drainAction, State.isEmpty, he]
  · cases hr : s.readSlot (incMod s.rbN s.tail) <;> simp [State.drainAction, State.isEmpty, he, hr]

theorem execDrain_fault_iff :
    execDrain s = .fault f ↔
      s.drainEnabled = true ∧ s.head ≠ s.tail ∧ s.readSlot (incMod s.rbN s.tail) = none := by
  rw [← drainAction_fault_iff (f := f)]
  cases he : s.drainEnabled <;> simp [execDrain, he]

theorem execTxput_fault {b : Byte} (h : execTxput b s = .fault f) :
    s.inProgress = some (.txput b) ∧ s.fgpc = .enq .p2 ∧ s.rbN ≤ s.next.toNat := by
  unfold execTxput at h
  split at h
  · split at h <;> cases h
  · rename_i k hk
    split at h
    · obtain ⟨rfl, hge⟩ := enqueueStep_fault_iff.1 h
      exact ⟨‹_›, hk, hge⟩
    · cases h
  · cases h

theorem execTxputs_fault {p : Half} (h : execTxputs p s = .fault f) :
    s.inProgress = some (.txputs p) ∧ s.fgpc = .enq .p2 ∧ s.rbN ≤ s.next.toNat := by
  unfold execTxputs at h
  split at h
  · split at h
    · cases h
    · split at h <;> cases h
  · rename_i k hk
    split at h
    · obtain ⟨rfl, hge⟩ := enqueueStep_fault_iff.1 h
      exact ⟨‹_›, hk, hge⟩
    · cases h
  · split at h <;> cases h
  · cases h

theorem execTxinit_ne_fault (bd : BitVec 12) : execTxinit bd s ≠ .fault f := by
  unfold execTxinit
  (repeat' split) <;> simp

theorem execAdccfg_ne_fault (df : Byte) : execAdccfg df s ≠ .fault f := by
  unfold execAdccfg
  (repeat' split) <;> simp

theorem execAdcsample_ne_fault (ch : BitVec 3) : execAdcsample ch s ≠ .fault f := by
  unfold execAdcsample
  (repeat' split) <;> simp

theorem execTxSent_ne_fault : execTxSent s ≠ .fault f := by
  unfold execTxSent
  split <;> simp

theorem execAdcDone_ne_fault (v : Sample) : execAdcDone v s ≠ .fault f := by
  unfold execAdcDone
  split <;> simp

theorem execReport_ne_fault : execReport s ≠ .fault f := by
  unfold execReport
  (repeat' split) <;> simp

/-- Everything an instruction that faults can have done: it accessed a slot that does not exist, as the command in
progress at `P2` or as a `DRAIN` on a buffer that is not empty. -/
theorem exec_fault {i : Instr} (h : exec i s = .fault f) :
    (s.inProgress = some i ∧ s.fgpc = .enq .p2 ∧ s.rbN ≤ s.next.toNat) ∨
    (i = .drain ∧ s.drainEnabled = true ∧ s.head ≠ s.tail ∧ s.readSlot (incMod s.rbN s.tail) = none) := by
  cases i with
  | txinit bd => exact absurd h (execTxinit_ne_fault bd)
  | txput b => exact .inl (execTxput_fault h)
  | txputs p => exact .inl (execTxputs_fault h)
  | adccfg df => exact absurd h (execAdccfg_ne_fault df)
  | adcsample ch => exact absurd h (execAdcsample_ne_fault ch)
  | drain => exact .inr ⟨rfl, execDrain_fault_iff.1 h⟩
  | txSent => exact absurd h execTxSent_ne_fault
  | adcDone v => exact absurd h (execAdcDone_ne_fault v)
  | report => exact absurd h execReport_ne_fault
  | reserved w => cases h

/-- A move faults only by the instruction it executes: the host's writes of `GIE` and `STR` never do. -/
theorem perform_fault {m : Move} (h : perform m s = .fault f) : ∃ i, exec i s = .fault f := by
  unfold perform at h
  split at h
  · split at h
    · exact ⟨_, h⟩
    · cases h
  · cases h

end

end Sys2Proof.Machine

namespace Sys2Proof.Safety

open Sys2Proof.Machine

section
variable {s : State}

/-! ### The slots that are accessed exist -/

/-- Between `P0`, which computes it, and its commit at `P3`, `NEXT` is an index of the buffer (10_state.md R24). -/
theorem RingInv.next_lt (hi : RingInv s) (hf : holdsNext s.fgpc = true) : s.next.toNat < s.rbN := by
  rw [hi.next hf]
  exact incMod_lt hi.slots_pos hi.size.2 s.head

/-- The slot after `TAIL`, which a `DRAIN` reads, exists. -/
theorem RingInv.readSlot_after_tail_ne_none (hi : RingInv s) : s.readSlot (incMod s.rbN s.tail) ≠ none := by
  rw [State.readSlot_of_lt (incMod_lt hi.slots_pos hi.size.2 s.tail)]
  exact Option.some_ne_none _

/-- No move faults while the ring buffer is well formed. -/
theorem perform_ne_fault (hi : RingInv s) (m : Move) (f : Fault) : perform m s ≠ .fault f := by
  intro h
  obtain ⟨i, hexec⟩ := perform_fault h
  obtain ⟨-, hp2, hge⟩ | ⟨-, -, -, hnone⟩ := exec_fault hexec
  · exact Nat.not_lt.2 hge (hi.next_lt (by rw [hp2]; rfl))
  · exact hi.readSlot_after_tail_ne_none hnone

end

/-! ### The statements -/

/-- Settles O12: picking the move does not touch the invariant, under which no move faults. -/
theorem stepNeverFaults : Obligations.StepNeverFaults := by
  intro s f hi
  obtain ⟨ms, n, hpick⟩ := s.afterPick_eq
  have hring : RingInv s.afterPick := hpick ▸ (inv_schedule hi ms n).ring
  exact perform_ne_fault hring s.nextMove f

/-- Settles O31: the micro-step and the action where each access is made, and the two slots by the ring's invariant. -/
theorem missingSlotFaults : Obligations.MissingSlotFaults := by
  refine ⟨fun s i hfor hp2 hge => ?_, fun s hen hne hnone => ?_, fun s hi => ⟨fun hp2 => ?_, ?_⟩⟩
  · rw [exec_enqueuesFor hfor hp2]
    exact enqueueStep_fault_iff.2 ⟨rfl, hge⟩
  · exact execDrain_fault_iff.2 ⟨hen, hne, hnone⟩
  · exact hi.ring.next_lt (by rw [hp2]; rfl)
  · exact hi.ring.readSlot_after_tail_ne_none

end Sys2Proof.Safety
end

section
/-! PROOF. The statements of the family 30_encoding.md on the decoder and the encoder. Both columns of the opcode map, a
slice of the word (R95) and a masked word (R93), say that the word divided by the size of the operand field is a given
number; between numbers, that the rows exclude each other is linear arithmetic. -/

namespace Sys2Proof

open Sys2Proof.Laws

section
variable {n : Nat} {w : Cmd}

/-! ### A row of the opcode map as a number -/

/-- The bits of a word from `n` on, as a number. -/
theorem slice_eq_iff {k : Nat} {c : BitVec k} (hk : n + k = 20) :
    w.extractLsb' n k = c ↔ w.toNat / 2 ^ n = c.toNat := by
  have hlt : w.toNat / 2 ^ n < 2 ^ k := Nat.div_lt_of_lt_mul (by rw [← Nat.pow_add, hk]; exact w.isLt)
  rw [← BitVec.toNat_inj, BitVec.extractLsb'_toNat, Nat.shiftRight_eq_div_pow, Nat.mod_eq_of_lt hlt]

/-- Masking off the low `n` bits. -/
theorem toNat_and_highMask (w : Cmd) (n : Nat) : (w &&& BitVec.allOnes 20 <<< n).toNat = w.toNat / 2 ^ n * 2 ^ n := by
  have hle : w.toNat / 2 ^ n * 2 ^ n ≤ w.toNat := Nat.div_mul_le_self _ _
  rw [← BitVec.shiftLeft_ushiftRight, BitVec.toNat_shiftLeft, BitVec.toNat_ushiftRight, Nat.shiftRight_eq_div_pow,
    Nat.shiftLeft_eq, Nat.mod_eq_of_lt (Nat.lt_of_le_of_lt hle w.isLt)]

/-- A mask over the bits from `n` on, compared with a pattern whose low `n` bits are 0. -/
theorem mask_eq_iff {mask pattern : Cmd} (n : Nat) (hm : mask = BitVec.allOnes 20 <<< n)
    (hp : pattern &&& mask = pattern) : w &&& mask = pattern ↔ w.toNat / 2 ^ n = pattern.toNat / 2 ^ n := by
  subst hm
  rw [← hp, ← BitVec.toNat_inj, toNat_and_highMask, toNat_and_highMask, Nat.mul_div_cancel _ (Nat.two_pow_pos n),
    Nat.mul_left_inj (Nat.two_pow_pos n).ne']

/-! ### The operand in the low bits -/

/-- The operand of a word put together from a pattern and an operand reads back. -/
theorem extractLsb'_of_encoded {pattern : Cmd} {x : BitVec n} (hw : some (pattern + x.setWidth 20) = some w)
    (hn : n ≤ 20) (hp : pattern.setWidth n = 0) : w.extractLsb' 0 n = x := by
  rw [← Option.some.inj hw, ← BitVec.setWidth_eq_extractLsb' hn, BitVec.setWidth_add _ _ hn, hp,
    BitVec.setWidth_setWidth_of_le x hn, BitVec.setWidth_eq, zero_add]

/-- A word on a row is the row's pattern and the word's own low bits put together. -/
theorem add_extractLsb'_of_row {pattern : Cmd} (h : w.toNat / 2 ^ n = pattern.toNat / 2 ^ n)
    (hp : pattern.toNat % 2 ^ n = 0) : pattern + (w.extractLsb' 0 n).setWidth 20 = w := by
  have hdvd : pattern.toNat = 2 ^ n * (w.toNat / 2 ^ n) := by rw [h, Nat.mul_div_cancel' (Nat.dvd_of_mod_eq_zero hp)]
  have hlow : w.toNat % 2 ^ n < 2 ^ 20 := Nat.lt_of_le_of_lt (Nat.mod_le _ _) w.isLt
  apply BitVec.eq_of_toNat_eq
  rw [BitVec.toNat_add, BitVec.toNat_setWidth, BitVec.extractLsb'_toNat, Nat.shiftRight_zero, Nat.mod_eq_of_lt hlow, hdvd,
    Nat.div_add_mod, Nat.mod_eq_of_lt w.isLt]

/-! ### The decoder, row by row -/

/-- `decode` with each row's test as a division by the size of its operand field (30_encoding.md R95). -/
theorem decode_eq (w : Cmd) :
    decode w =
      if w.toNat / 2 ^ 12 = 0x10 then .txinit (w.extractLsb' 0 12)
      else if w.toNat / 2 ^ 8 = 0x200 then .txput (w.extractLsb' 0 8)
      else if w.toNat / 2 ^ 16 = 0x3 then .txputs (w.extractLsb' 0 16)
      else if w.toNat / 2 ^ 8 = 0x400 then .adccfg (w.extractLsb' 0 8)
      else if w.toNat / 2 ^ 3 = 0xA000 then .adcsample (w.extractLsb' 0 3)
      else .reserved w := by
  simp only [decode, slice_eq_iff (n := 12) (k := 8) rfl, slice_eq_iff (n := 8) (k := 12) rfl,
    slice_eq_iff (n := 16) (k := 4) rfl, slice_eq_iff (n := 3) (k := 17) rfl]
  rfl

theorem decode_eq_reserved_iff :
    decode w = .reserved w ↔
      w.toNat / 2 ^ 12 ≠ 0x10 ∧ w.toNat / 2 ^ 8 ≠ 0x200 ∧ w.toNat / 2 ^ 16 ≠ 0x3 ∧ w.toNat / 2 ^ 8 ≠ 0x400 ∧
      w.toNat / 2 ^ 3 ≠ 0xA000 := by
  rw [decode_eq]
  split_ifs <;> simp_all

/-- The decoder rejects exactly the words that the match and mask columns select on no row. -/
theorem decode_eq_reserved_iff_isReservedWord : decode w = .reserved w ↔ isReservedWord w = true := by
  simp only [decode_eq_reserved_iff, isReservedWord, Bool.and_eq_true, bne_iff_ne, ne_eq, and_assoc,
    mask_eq_iff (mask := 0xFF000) 12 (by decide) (by decide : (0x10000 &&& _ : Cmd) = _),
    mask_eq_iff (mask := 0xFFF00) 8 (by decide) (by decide : (0x20000 &&& _ : Cmd) = _),
    mask_eq_iff (mask := 0xF0000) 16 (by decide) (by decide : (0x30000 &&& _ : Cmd) = _),
    mask_eq_iff (mask := 0xFFF00) 8 (by decide) (by decide : (0x40000 &&& _ : Cmd) = _),
    mask_eq_iff (mask := 0xFFFF8) 3 (by decide) (by decide : (0x50000 &&& _ : Cmd) = _)]
  rfl

end

/-! ### The statements -/

/-- Settles O3: the tests of the rows as numbers, of which the ones above a row's own cannot hold. -/
theorem decodeFollowsOpcodeMap : Obligations.DecodeFollowsOpcodeMap := by
  intro w
  rw [decode_eq]
  refine ⟨fun h => ?_, fun h => ?_, fun h => ?_, fun h => ?_, fun h => ?_⟩
  · have hrow : w.toNat / 2 ^ 12 = 0x10 := (mask_eq_iff 12 (by decide) (by decide)).1 h
    exact if_pos hrow
  · have hrow : w.toNat / 2 ^ 8 = 0x200 := (mask_eq_iff 8 (by decide) (by decide)).1 h
    rw [if_neg (by omega), if_pos hrow]
  · have hrow : w.toNat / 2 ^ 16 = 0x3 := (mask_eq_iff 16 (by decide) (by decide)).1 h
    rw [if_neg (by omega), if_neg (by omega), if_pos hrow]
  · have hrow : w.toNat / 2 ^ 8 = 0x400 := (mask_eq_iff 8 (by decide) (by decide)).1 h
    rw [if_neg (by omega), if_neg (by omega), if_neg (by omega), if_pos hrow]
  · have hrow : w.toNat / 2 ^ 3 = 0xA000 := (mask_eq_iff 3 (by decide) (by decide)).1 h
    rw [if_neg (by omega), if_neg (by omega), if_neg (by omega), if_neg (by omega), if_pos hrow]

/-- Settles O1: an encoded command lies on its row, where the decoder reads the operand back. -/
theorem decodeInvertsEncode : Obligations.DecodeInvertsEncode := by
  intro i w hwf hw
  obtain ⟨hinit, hput, hputs, hcfg, hsample⟩ := decodeFollowsOpcodeMap w
  cases i with
  | txinit bd => rw [hinit (EncodedRow.txinit bd hwf w hw), extractLsb'_of_encoded hw (by decide) (by decide)]
  | txput b => rw [hput (EncodedRow.txput b hwf w hw), extractLsb'_of_encoded hw (by decide) (by decide)]
  | txputs p => rw [hputs (EncodedRow.txputs p hwf w hw), extractLsb'_of_encoded hw (by decide) (by decide)]
  | adccfg df => rw [hcfg (EncodedRow.adccfg df hwf w hw), extractLsb'_of_encoded hw (by decide) (by decide)]
  | adcsample ch => rw [hsample (EncodedRow.adcsample ch hwf w hw), extractLsb'_of_encoded hw (by decide) (by decide)]
  | drain | txSent | adcDone | report => cases hw
  | reserved v =>
    cases hw
    exact decode_eq_reserved_iff_isReservedWord.2 hwf

/-- Settles O2: on each row the pattern and the operand make up the word. -/
theorem encodeInvertsDecode : Obligations.EncodeInvertsDecode := by
  intro w
  rw [decode_eq]
  split_ifs with hinit hput hputs hcfg hsample
  · exact congrArg some (add_extractLsb'_of_row hinit (by decide))
  · exact congrArg some (add_extractLsb'_of_row hput (by decide))
  · exact congrArg some (add_extractLsb'_of_row hputs (by decide))
  · exact congrArg some (add_extractLsb'_of_row hcfg (by decide))
  · exact congrArg some (add_extractLsb'_of_row hsample (by decide))
  · rfl

/-- Settles O4: the six words, decoded. -/
theorem sampleWordsDecode : Obligations.SampleWordsDecode := by
  unfold Obligations.SampleWordsDecode
  decide

end Sys2Proof
end

section
/-! PROOF. The statements of the family 30_encoding.md on the command port: which words it refuses, what a presented word
runs, what acceptance latches, and that the port is closed while a command runs. -/

namespace Sys2Proof.Machine

section
variable {s : State}

/-! ### Reserved words at the port -/

/-- A reserved opcode or a nonzero must-be-zero bit takes the word off every row (30_encoding.md R97, R98). -/
theorem decode_eq_reserved_of_fields {w : Cmd}
    (h : w.extractLsb' 16 4 = 0 ∨ 6 ≤ (w.extractLsb' 16 4).toNat
      ∨ (w.extractLsb' 16 4 = 1 ∧ w.extractLsb' 12 4 ≠ 0)
      ∨ ((w.extractLsb' 16 4 = 2 ∨ w.extractLsb' 16 4 = 4) ∧ w.extractLsb' 8 8 ≠ 0)
      ∨ (w.extractLsb' 16 4 = 5 ∧ w.extractLsb' 3 13 ≠ 0)) :
    decode w = .reserved w := by
  simp only [ne_eq, ← BitVec.toNat_inj, BitVec.extractLsb'_toNat, Nat.shiftRight_eq_div_pow, BitVec.reduceToNat] at h
  rw [decode_eq_reserved_iff]
  omega

/-- A command at a ready port runs as the instruction it decodes to (30_encoding.md R91). -/
theorem perform_command (h : s.portReady = true) (w : Cmd) : perform (.command w) s = exec (decode w) s :=
  perform_exec h rfl

/-- While a command is in progress the host's command move does not happen (30_encoding.md R91). -/
theorem perform_command_of_busy (h : s.fgpc ≠ .idle) (w : Cmd) : perform (.command w) s = .next s :=
  perform_disabled (by simp [State.enabled, State.portReady, h])

theorem step_withFetchWord (s : State) (nbits w : Nat) :
    step (s.withFetchWord nbits w) = exec (decode (portWord w)) { s with fgpc := .idle, hostpc := .idle } := by
  rw [step_of_script (s := s.withFetchWord nbits w) rfl]
  exact perform_command rfl _

theorem decodeTableWord_eq_some {nbits w : Nat} {i : Instr} (h : decodeTableWord nbits w = some i) :
    decode (portWord w) = i := by
  unfold decodeTableWord at h
  split at h
  · cases h
  · exact Option.some.inj h

theorem decodeTableWord_eq_none {nbits w : Nat} (h : decodeTableWord nbits w = none) :
    ∃ v, decode (portWord w) = .reserved v := by
  unfold decodeTableWord at h
  split at h
  · exact ⟨_, ‹_›⟩
  · cases h

/-! ### The port while a command runs -/

theorem execTxinit_portNotReady {bd : BitVec 12} (hf : s.fgpc ≠ .idle) (hi : s.inProgress ≠ some (.txinit bd)) :
    execTxinit bd s = .refused .portNotReady := by
  unfold execTxinit
  split
  · exact absurd ‹_› hf
  · exact if_neg hi
  · rfl

theorem execTxput_portNotReady {b : Byte} (hf : s.fgpc ≠ .idle) (hi : s.inProgress ≠ some (.txput b)) :
    execTxput b s = .refused .portNotReady := by
  unfold execTxput
  split
  · exact absurd ‹_› hf
  · exact if_neg hi
  · rfl

theorem execTxputs_portNotReady {p : Half} (hf : s.fgpc ≠ .idle) (hi : s.inProgress ≠ some (.txputs p)) :
    execTxputs p s = .refused .portNotReady := by
  unfold execTxputs
  split
  · exact absurd ‹_› hf
  · exact if_neg hi
  · exact if_neg hi
  · rfl

theorem execAdccfg_portNotReady {df : Byte} (hf : s.fgpc ≠ .idle) (hi : s.inProgress ≠ some (.adccfg df)) :
    execAdccfg df s = .refused .portNotReady := by
  unfold execAdccfg
  split
  · exact absurd ‹_› hf
  · exact if_neg hi
  · rfl

theorem execAdcsample_portNotReady {ch : BitVec 3} (hf : s.fgpc ≠ .idle) (hi : s.inProgress ≠ some (.adcsample ch)) :
    execAdcsample ch s = .refused .portNotReady := by
  unfold execAdcsample
  split
  · exact absurd ‹_› hf
  · exact if_neg hi
  · rfl

theorem execReport_portNotReady (hf : s.fgpc ≠ .idle) : execReport s = .refused .portNotReady := if_neg hf

/-! ### Acceptance at an idle port -/

theorem execTxinit_idle (h : s.fgpc = .idle) (bd : BitVec 12) :
    execTxinit bd s = .next (s.latch (bd.setWidth 16) (.init .i0)) := by
  simp [execTxinit, h]

theorem execTxput_idle (h : s.fgpc = .idle) (b : Byte) :
    execTxput b s = if s.txReady then .next (s.acceptPut b) else .refused .txNotReady := by
  simp [execTxput, h]

theorem execTxputs_idle (h : s.fgpc = .idle) (p : Half) :
    execTxputs p s =
      if !s.txReady then .refused .txNotReady
      else if s.str.terminated p then .next { s.latch p (.str .t0) with instr := true }
      else .refused .unterminatedString := by
  simp [execTxputs, h]

theorem execAdccfg_idle (h : s.fgpc = .idle) (df : Byte) :
    execAdccfg df s =
      if (psCode df).isSome then .next (s.latch (df.setWidth 16) (.cfg .c0)) else .refused .illegalDivisor := by
  cases hc : psCode df <;> simp [execAdccfg, h, hc]

theorem execAdcsample_idle (h : s.fgpc = .idle) (ch : BitVec 3) :
    execAdcsample ch s = if s.adcReady then .next (s.acceptSample ch) else .refused .adcNotReady := by
  simp [execAdcsample, h]

/-- The six factors of `DIV_SET` have a prescaler code (42_adc_sampler.md R182). -/
theorem psCode_isSome_of_mem : ∀ df ∈ ([4, 8, 16, 32, 64, 128] : List Byte), (psCode df).isSome = true := by decide

end

/-! ### The statements -/

/-- Settles O5: off every row the decoder answers the reserved word, and its meaning is the refusal. -/
theorem reservedWordsAreRefused : Obligations.ReservedWordsAreRefused := by
  intro w hw
  have hdec : decode w = .reserved w := decode_eq_reserved_of_fields hw
  refine ⟨hdec, fun s => ⟨rfl, fun hready => ?_⟩⟩
  rw [perform_command hready, hdec]
  rfl

/-- Settles O16: each meaning refuses what is not in progress, and the host's move is not enabled. -/
theorem portClosedWhileCommandRuns : Obligations.PortClosedWhileCommandRuns := by
  intro s i hf hi hcmd
  refine ⟨?_, perform_command_of_busy hf⟩
  obtain ⟨bd, rfl⟩ | ⟨b, rfl⟩ | ⟨p, rfl⟩ | ⟨df, rfl⟩ | ⟨ch, rfl⟩ | rfl := hcmd
  · exact execTxinit_portNotReady hf hi
  · exact execTxput_portNotReady hf hi
  · exact execTxputs_portNotReady hf hi
  · exact execAdccfg_portNotReady hf hi
  · exact execAdcsample_portNotReady hf hi
  · exact execReport_portNotReady hf

/-- Settles O6: the presented word is the picked move at a ready port; what the table rejects decodes to a reserved word. -/
theorem stepRunsPresentedWord : Obligations.StepRunsPresentedWord := by
  intro s nbits w
  rw [step_withFetchWord]
  refine ⟨fun i hi => by rw [decodeTableWord_eq_some hi], fun hnone => ?_⟩
  obtain ⟨v, hv⟩ := decodeTableWord_eq_none hnone
  rw [hv]
  rfl

/-- Settles O15: each command's acceptance under its precondition. -/
theorem acceptanceLatchesOperand : Obligations.AcceptanceLatchesOperand := by
  intro s hf
  refine ⟨fun bd => execTxinit_idle hf bd, fun b hready => ?_, fun p hready hends => ?_, fun df hdf => ?_,
    fun ch hready => ?_⟩
  · exact (execTxput_idle hf b).trans (if_pos hready)
  · refine (execTxputs_idle hf p).trans ?_
    rw [hready, if_pos hends]
    rfl
  · exact (execAdccfg_idle hf df).trans (if_pos (psCode_isSome_of_mem df hdf))
  · exact (execAdcsample_idle hf ch).trans (if_pos hready)

end Sys2Proof.Machine
end

section
/-! PROOF. Runs of moves, foreground micro-step by foreground micro-step, and the refusals of `TXPUT` and `TXPUTS` at
acceptance (40_tx_producer.md R130; 93_implementation_defined.md U6). -/

namespace Sys2Proof.Machine

open Sys2Proof.Safety

section
variable {s t : State} {m : Move} {ms : List Move}

/-! ### Runs -/

theorem runMoves_cons (h : perform m s = .next t) (ms : List Move) : runMoves (m :: ms) s = runMoves ms t := by
  rw [runMoves, h]

/-- The ring buffer stays well formed along every run. -/
theorem runMoves_ringInv (h : runMoves ms s = .next t) (hi : RingInv s) : RingInv t := by
  induction ms generalizing s with
  | nil => cases h; exact hi
  | cons m ms ih =>
    rw [runMoves] at h
    split at h
    · rename_i u hu
      exact ih h (moved_ringInv (perform_moved hu) hi)
    · cases h
    · cases h

theorem runForeground_add {k : Nat} (h : runForeground k s = .next t) (n : Nat) :
    runForeground (k + n) s = runForeground n t := by
  unfold runForeground at h ⊢
  rw [List.replicate_add, runMoves_append, h]

theorem runForeground_succ (h : perform .foreground s = .next t) (n : Nat) :
    runForeground (n + 1) s = runForeground n t :=
  runMoves_cons h _

/-- A run of `TXINIT` goes on after its micro-step at `FGPC`. -/
theorem runForeground_init {k : InitLabel} (hf : s.fgpc = .init k) (n : Nat) :
    runForeground (n + 1) s = runForeground n (initStep k s) :=
  runForeground_succ (by rw [perform_foreground, hf]) n

/-- A run of an enqueue goes on after its micro-step at `FGPC`. -/
theorem runForeground_enq {k : EnqLabel} (hf : s.fgpc = .enq k) (h : enqueueStep k s = .next t) (n : Nat) :
    runForeground (n + 1) s = runForeground n t :=
  runForeground_succ (by rw [perform_foreground, hf]; exact h) n

/-- A run of `TXPUTS` goes on after its micro-step at `FGPC`. -/
theorem runForeground_str {k : StrLabel} (hf : s.fgpc = .str k) (n : Nat) :
    runForeground (n + 1) s = runForeground n (stringStep k s) :=
  runForeground_succ (by rw [perform_foreground, hf]) n

/-! ### A command at the port -/

theorem State.portReady_iff (s : State) : s.portReady = true ↔ s.fgpc = .idle ∧ s.hostpc = .idle := by
  simp [State.portReady]

/-- At a ready port the word of an instruction runs as that instruction (30_encoding.md R91, R109). -/
theorem perform_command_encode {i : Instr} {w : Cmd} (h : s.portReady = true) (hwf : i.wellFormed = true)
    (hw : encode i = some w) : perform (.command w) s = exec i s := by
  rw [perform_command h, decodeInvertsEncode i w hwf hw]

end

/-! ### The statements -/

/-- Settles O24: the readiness test is the first that each acceptance makes. -/
theorem enqueueRefusedBeforeInit : Obligations.EnqueueRefusedBeforeInit := by
  intro s hf hnot
  constructor
  · intro b
    exact (execTxput_idle hf b).trans (by rw [hnot]; rfl)
  · intro p
    exact (execTxputs_idle hf p).trans (by rw [hnot]; rfl)

/-- Settles O26: acceptance tests for a zero byte up to the last address. -/
theorem unterminatedStringRefused : Obligations.UnterminatedStringRefused := by
  intro s p hf hready hnone
  have hend : ¬ s.str.terminated p = true := by
    rw [Memory.terminated_iff]
    rintro ⟨a, hle, hlt, hzero⟩
    exact hnone a hle hlt hzero
  refine (execTxputs_idle hf p).trans ?_
  rw [hready, if_neg hend]
  rfl

end Sys2Proof.Machine
end

section
/-! PROOF. A full buffer with `GIE = 0` (40_tx_producer.md R133; 70_reset_and_hazards.md R279): what the agents that can
still move leave unchanged, and that no move gets the foreground out of `P1`. -/

namespace Sys2Proof.Machine

open Sys2Proof.Safety

/-- What no move changes while the foreground stands blocked: the ring buffer, the enqueue in progress, and the registers
the foreground and the interrupt act on. What is left out is the transmitter's, the converter's and the host's. -/
structure SameEnqueue (s t : State) : Prop where
  fgpc : t.fgpc = s.fgpc
  gie : t.gie = s.gie
  ring : sameRing s t
  next : t.next = s.next
  byte : t.byte = s.byte
  uctrl : t.uctrl = s.uctrl
  txlog : t.txlog = s.txlog

section
variable {s t u : State}

theorem SameEnqueue.refl (s : State) : SameEnqueue s s := ⟨rfl, rfl, ⟨rfl, rfl, rfl⟩, rfl, rfl, rfl, rfl⟩

theorem SameEnqueue.trans (h : SameEnqueue s t) (h' : SameEnqueue t u) : SameEnqueue s u where
  fgpc := h'.fgpc.trans h.fgpc
  gie := h'.gie.trans h.gie
  ring := ⟨h'.ring.1.trans h.ring.1, h'.ring.2.1.trans h.ring.2.1, h'.ring.2.2.trans h.ring.2.2⟩
  next := h'.next.trans h.next
  byte := h'.byte.trans h.byte
  uctrl := h'.uctrl.trans h.uctrl
  txlog := h'.txlog.trans h.txlog

/-- On a full buffer `P1` spins (40_tx_producer.md R126). -/
theorem perform_foreground_full (hf : s.fgpc = .enq .p1) (hfull : s.next = s.tail) :
    perform .foreground s = .next s := by
  rw [perform_foreground, hf]
  exact if_pos hfull

/-- A blocked foreground is at no label where the host may act on the port or on `GIE`, and with `GIE = 0` no `DRAIN` is
enabled; the transmitter, the converter and the host's writes of `STR` are, and touch nothing of the enqueue. -/
theorem perform_of_blocked (hf : s.fgpc = .enq .p1) (hfull : s.next = s.tail) (hgie : s.gie = false) (m : Move) :
    ∃ t, perform m s = .next t ∧ SameEnqueue s t := by
  have hidle : s.fgpc ≠ .idle := by simp [hf]
  cases m with
  | foreground => exact ⟨s, perform_foreground_full hf hfull, .refl s⟩
  | command w => exact ⟨s, perform_command_of_busy hidle w, .refl s⟩
  | drain => exact ⟨s, perform_disabled (by simp [State.enabled, State.drainEnabled, hgie]), .refl s⟩
  | report => exact ⟨s, perform_disabled (by simpa [State.enabled] using hidle), .refl s⟩
  | writeGie b => exact ⟨s, perform_disabled (by simpa [State.enabled] using hidle), .refl s⟩
  | txSent =>
    cases hu : s.txSentEnabled with
    | false => exact ⟨s, perform_disabled hu, .refl s⟩
    | true =>
      exact ⟨s.byteSent, (perform_exec (m := .txSent) hu rfl).trans (if_pos hu), ⟨rfl, rfl, ⟨rfl, rfl, rfl⟩, rfl, rfl, rfl, rfl⟩⟩
  | adcDone v =>
    cases ha : s.adcDoneEnabled with
    | false => exact ⟨s, perform_disabled ha, .refl s⟩
    | true =>
      exact ⟨s.conversionDone v, (perform_exec (m := .adcDone v) ha rfl).trans (if_pos ha),
        ⟨rfl, rfl, ⟨rfl, rfl, rfl⟩, rfl, rfl, rfl, rfl⟩⟩
  | storeStr a v =>
    refine ⟨_, perform_storeStr a v s, ?_⟩
    split
    · exact .refl s
    · exact ⟨rfl, rfl, ⟨rfl, rfl, rfl⟩, rfl, rfl, rfl, rfl⟩

/-- A blocked foreground stays blocked under every schedule. -/
theorem runMoves_of_blocked (ms : List Move) (hf : s.fgpc = .enq .p1) (hfull : s.next = s.tail) (hgie : s.gie = false) :
    ∃ t, runMoves ms s = .next t ∧ SameEnqueue s t := by
  induction ms generalizing s with
  | nil => exact ⟨s, rfl, .refl s⟩
  | cons m ms ih =>
    obtain ⟨u, hu, hsu⟩ := perform_of_blocked hf hfull hgie m
    have hfull' : u.next = u.tail := by rw [hsu.next, hsu.ring.2.2, hfull]
    obtain ⟨t, ht, hut⟩ := ih (hsu.fgpc.trans hf) hfull' (hsu.gie.trans hgie)
    exact ⟨t, (runMoves_cons hu ms).trans ht, hsu.trans hut⟩

end

/-- Settles O44: induction over the schedule, each move leaving the blocked enqueue as it is. -/
theorem fullBufferWithInterruptsOffBlocks : Obligations.FullBufferWithInterruptsOffBlocks := by
  intro s ms hf hfull hgie
  obtain ⟨t, hrun, hsame⟩ := runMoves_of_blocked ms hf hfull hgie
  exact ⟨t, hrun, hsame.fgpc.trans hf, hsame.gie.trans hgie, hsame.ring, hsame.next, hsame.byte, hsame.uctrl, hsame.txlog⟩

end Sys2Proof.Machine
end

section
/-! PROOF. `TXINIT` of the family 40_tx_producer.md: its micro-steps and its run. -/

namespace Sys2Proof.Machine

open Sys2Proof.Safety

section
variable {s : State}

/-- The divisor latched at acceptance reads back (30_encoding.md R106). -/
theorem argDivisor_latch (s : State) (bd : BitVec 12) (l : Fgpc) : (s.latch (bd.setWidth 16) l).argDivisor = bd := by
  show (bd.setWidth 16).extractLsb' 0 12 = bd
  rw [← BitVec.setWidth_eq_extractLsb' (by decide)]
  simp

theorem exec_txinit {k : InitLabel} (hf : s.fgpc = .init k) :
    exec (.txinit s.argDivisor) s = .next (initStep k s) := by
  have hp : s.inProgress = some (.txinit s.argDivisor) := by rw [State.inProgress, hf]
  rw [exec_inProgress hp, hf]

/-- `TXINIT` from its first label to its end with no other agent stepping between (40_tx_producer.md R121). -/
theorem runForeground_txinit (hf : s.fgpc = .init .i0) :
    runForeground 6 s = .next { s with
      gie := true, bauddiv := s.argDivisor, uctrl := (s.uctrl ||| 0x08) &&& 0xDF, uframe := 0x06
      head := 0, tail := 0, fgpc := .idle } := by
  rw [runForeground_init hf, runForeground_init (k := .i1) rfl, runForeground_init (k := .i2) rfl,
    runForeground_init (k := .i3) rfl, runForeground_init (k := .i4) rfl, runForeground_init (k := .i5) rfl]
  simp only [initStep]
  rfl

/-- Nothing is pending on an empty buffer, whatever the indices (10_state.md R25, R28). -/
theorem pending_of_head_eq_tail (h : s.head = s.tail) : pending s = [] := by
  simp [pending, count, h]

end

/-- Settles O17: each micro-step by the meaning of the command in progress, and `GIE = 0` masks `DRAIN`. -/
theorem txinitMicroSteps : Obligations.TxinitMicroSteps := by
  constructor
  · intro s
    exact ⟨exec_txinit, exec_txinit, exec_txinit, exec_txinit, exec_txinit, exec_txinit⟩
  · intro s hi hmask
    have hgie : s.gie = false := hi.tx.masked hmask
    exact if_neg (by simp [State.drainEnabled, hgie])

/-- Settles O18: acceptance, then the run from `I0`; the postcondition is read off the end state. -/
theorem txinitRunLeavesPostcondition : Obligations.TxinitRunLeavesPostcondition := by
  intro s bd hport
  obtain ⟨hidle, -⟩ := (State.portReady_iff s).1 hport
  have haccept : perform (.command (0x10000 + bd.setWidth 20)) s = .next (s.latch (bd.setWidth 16) (.init .i0)) :=
    (perform_command_encode (i := .txinit bd) hport rfl rfl).trans (execTxinit_idle hidle bd)
  refine ⟨_, (runMoves_cons haccept _).trans (runForeground_txinit rfl), ?_, ?_, ?_, ?_⟩
  · rw [argDivisor_latch]
    rfl
  · refine (pipeline_idle_iff _).2 ⟨?_, rfl⟩
    exact State.setUdrie_udrie (s.setTxen true) false
  · refine (State.txReady_iff _).2 ⟨?_, by simp⟩
    exact (State.setUdrie_txen (s.setTxen true) false).trans (State.setTxen_txen s true)
  · exact pending_of_head_eq_tail rfl

end Sys2Proof.Machine
end

section
/-! PROOF. The enqueue of the family 40_tx_producer.md: its micro-steps, what they do to the pending sequence, the run of a
whole enqueue, and `TXPUT`. -/

namespace Sys2Proof.Machine

open Sys2Proof.Safety

section
variable {s : State}

/-! ### The micro-steps -/

/-- On a full buffer `P1` reads `TAIL` again (40_tx_producer.md R126). -/
theorem enqueueStep_p1_full (h : s.next = s.tail) : enqueueStep .p1 s = .next s := if_pos h

theorem enqueueStep_p1_room (h : s.next ≠ s.tail) : enqueueStep .p1 s = .next { s with fgpc := .enq .p2 } := if_neg h

theorem enqueueStep_p2 (h : s.next.toNat < s.rbN) :
    enqueueStep .p2 s = .next { s with buf := s.buf.set s.next.toNat s.byte, fgpc := .enq .p3 } := by
  simp only [enqueueStep, State.writeSlot_of_lt s.byte h]
  rfl

/-- `P4` sets `UDRIE`, keeps the other bits of `UCTRL`, and retires or returns to the string (40_tx_producer.md R129). -/
theorem enqueueStep_p4 (s : State) :
    enqueueStep .p4 s =
      .next { s with uctrl := s.uctrl ||| 0x20, fgpc := if s.instr then .str .t2 else .idle } := rfl

/-- A micro-step of an enqueue does not read `INSTR`, but for where `P4` continues (40_tx_producer.md R138). -/
theorem enqueueStep_withInstr {t : State} {k : EnqLabel} (b : Bool) (h : enqueueStep k s = .next t) :
    enqueueStep k { s with instr := b } =
      .next { t with instr := b, fgpc := if k = .p4 then (if b then .str .t2 else .idle) else t.fgpc } := by
  obtain ⟨rfl, rfl⟩ | ⟨rfl, hfull, rfl⟩ | ⟨rfl, hroom, rfl⟩ | ⟨rfl, hlt, rfl⟩ | ⟨rfl, rfl⟩ | ⟨rfl, rfl⟩ :=
    enqueueStep_next h
  · rfl
  · exact enqueueStep_p1_full hfull
  · exact enqueueStep_p1_room hroom
  · exact enqueueStep_p2 hlt
  · rfl
  · rfl

/-! ### The pending sequence -/

/-- The slot that `P2` writes lies outside the pending bytes (40_tx_producer.md R127). -/
theorem pending_slotWrite (hi : RingInv s) (hf : s.fgpc = .enq .p2) :
    pending { s with buf := s.buf.set s.next.toNat s.byte, fgpc := .enq .p3 } = pending s := by
  have hnext : s.next = incMod s.rbN s.head := hi.next (by rw [hf]; rfl)
  have hroom : s.next ≠ s.tail := hi.room (by rw [hf]; rfl)
  have hset := pending_setSlot hi (hnext ▸ hroom) s.byte
  rw [← hnext] at hset
  exact hset

/-- `P3` makes pending the byte that `P2` wrote to the slot (40_tx_producer.md R128). -/
theorem pending_commitByte (hi : RingInv s) (hf : s.fgpc = .enq .p3) :
    pending { s with head := s.next, fgpc := .enq .p4 } = pending s ++ [s.byte] := by
  have hheld : holdsNext s.fgpc = true := by rw [hf]; rfl
  have hslot : some (s.buf.getD s.next.toNat 0) = some s.byte :=
    (readSlot_eq_getD (hi.next_lt hheld)).symm.trans (hi.slot hf)
  rw [pending_commit hi (hi.next hheld) (hi.room (by rw [hf]; rfl)), Option.some.inj hslot]

theorem count_eq_succ_of_pending {t : State} {b : Byte} (h : pending t = pending s ++ [b]) : count t = count s + 1 := by
  rw [← pending_length, h, List.length_append, pending_length, List.length_singleton]

/-! ### A whole enqueue -/

/-- The state after an enqueue of `BYTE` on a buffer with room (40_tx_producer.md R125 to R129). -/
def State.enqueued (s : State) : State :=
  { s with
    next := incMod s.rbN s.head
    buf := s.buf.set (incMod s.rbN s.head).toNat s.byte
    head := incMod s.rbN s.head
    uctrl := s.uctrl ||| 0x20
    fgpc := if s.instr then .str .t2 else .idle }

/-- An enqueue on a buffer with room is five micro-steps with no other agent stepping between. -/
theorem runForeground_enqueue (hi : RingInv s) (hf : s.fgpc = .enq .p0) (hroom : incMod s.rbN s.head ≠ s.tail) :
    runForeground 5 s = .next s.enqueued := by
  have hlt : (incMod s.rbN s.head).toNat < s.rbN := incMod_lt hi.slots_pos hi.size.2 s.head
  rw [runForeground_enq hf rfl, runForeground_enq rfl (enqueueStep_p1_room hroom),
    runForeground_enq rfl (enqueueStep_p2 hlt), runForeground_enq (k := .p3) rfl rfl,
    runForeground_enq rfl (enqueueStep_p4 _)]
  rfl

/-- An enqueue appends its byte: the states at `P0` to `P3` are followed, of which only `P2` and `P3` touch the ring. -/
theorem pending_enqueued (hi : RingInv s) (hf : s.fgpc = .enq .p0) (hroom : incMod s.rbN s.head ≠ s.tail) :
    pending s.enqueued = pending s ++ [s.byte] := by
  have hlt : (incMod s.rbN s.head).toNat < s.rbN := incMod_lt hi.slots_pos hi.size.2 s.head
  have h1 := moved_ringInv (.p0 hf) hi
  have h2 := moved_ringInv (.p1 rfl hroom) h1
  have h3 := moved_ringInv (.p2 rfl hlt) h2
  calc pending s.enqueued
    _ = _ := pending_congr rfl rfl rfl
    _ = _ ++ [s.byte] := pending_commitByte h3 rfl
    _ = _ ++ [s.byte] := congrArg (· ++ [s.byte]) (pending_slotWrite h2 rfl)
    _ = pending s ++ [s.byte] := congrArg (· ++ [s.byte]) (pending_congr rfl rfl rfl)

/-- On a full buffer the foreground stands at `P1` after any number of micro-steps (40_tx_producer.md R131). -/
theorem runForeground_full (hf : s.fgpc = .enq .p1) (hfull : s.next = s.tail) (n : Nat) :
    runForeground n s = .next s := by
  induction n with
  | zero => rfl
  | succ n ih => exact (runForeground_succ (perform_foreground_full hf hfull) n).trans ih

theorem State.isFull_iff (s : State) : s.isFull = true ↔ incMod s.rbN s.head = s.tail := beq_iff_eq

end

/-! ### The statements -/

/-- Settles O20: each micro-step by the meaning of the command it runs for. -/
theorem enqueueMicroSteps : Obligations.EnqueueMicroSteps := by
  intro s i hfor
  refine ⟨?_, ?_, ?_, ?_, ?_, ?_⟩
  · exact fun hf => exec_enqueuesFor hfor hf
  · exact fun hf hfull => (exec_enqueuesFor hfor hf).trans (enqueueStep_p1_full hfull)
  · exact fun hf hroom => (exec_enqueuesFor hfor hf).trans (enqueueStep_p1_room hroom)
  · exact fun hf hlt => (exec_enqueuesFor hfor hf).trans (enqueueStep_p2 hlt)
  · exact fun hf => exec_enqueuesFor hfor hf
  · exact fun hf => (exec_enqueuesFor hfor hf).trans (enqueueStep_p4 s)

/-- Settles O21: the slot written exists, and lies outside the pending bytes. -/
theorem slotWriteKeepsPending : Obligations.SlotWriteKeepsPending := by
  intro s i hi hfor hf
  have hlt : s.next.toNat < s.rbN := hi.next_lt (by rw [hf]; rfl)
  exact ⟨_, (exec_enqueuesFor hfor hf).trans (enqueueStep_p2 hlt), pending_slotWrite hi hf⟩

/-- Settles O22: the slot that `HEAD` then names holds the byte since `P2`. -/
theorem commitAppendsByte : Obligations.CommitAppendsByte := by
  intro s i hi hfor hf
  have hpending := pending_commitByte hi hf
  exact ⟨_, exec_enqueuesFor hfor hf, hpending, count_eq_succ_of_pending hpending, hi.slot hf⟩

/-- Settles O28: a next state of `TXPUTS` at a micro-step of an enqueue is that of the micro-step, which `TXPUT` shares. -/
theorem embeddedEnqueueEqualsTxput : Obligations.EmbeddedEnqueueEqualsTxput := by
  intro s t k hf hinstr hexec
  rw [exec_enqueuesFor (.inr ⟨hinstr, rfl⟩) hf] at hexec
  exact (exec_enqueuesFor (s := { s with instr := false }) (.inl ⟨rfl, rfl⟩) hf).trans
    (enqueueStep_withInstr false hexec)

/-- Settles O23: acceptance, then the whole enqueue where there is room, and `P0` and the spin at `P1` where there is none. -/
theorem txputRunAppendsOrBlocks : Obligations.TxputRunAppendsOrBlocks := by
  intro s b hi hport hready
  obtain ⟨hidle, hhost⟩ := (State.portReady_iff s).1 hport
  have haccept : perform (.command (0x20000 + b.setWidth 20)) s = .next (s.acceptPut b) :=
    (perform_command_encode (i := .txput b) hport rfl rfl).trans
      ((execTxput_idle hidle b).trans (if_pos hready))
  have hput : RingInv (s.acceptPut b) := moved_ringInv (.acceptPut b hidle hhost hready) hi
  constructor
  · intro hnot
    have hroom : incMod s.rbN s.head ≠ s.tail := fun h => by simp [(State.isFull_iff s).2 h] at hnot
    refine ⟨_, (runMoves_cons haccept _).trans (runForeground_enqueue hput rfl hroom), ?_, ?_⟩
    · simp only [State.enqueued, State.acceptPut, State.latch, ← hidle]
      rfl
    · exact pending_enqueued hput rfl hroom
  · intro hfull n
    exact (runMoves_cons haccept _).trans <| (runForeground_enq (k := .p0) rfl rfl n).trans <|
      runForeground_full rfl ((State.isFull_iff s).1 hfull) n

end Sys2Proof.Machine
end

section
/-! PROOF. `TXPUTS` of the family 40_tx_producer.md: its micro-steps, and its run over a string that fits, byte by byte. -/

namespace Sys2Proof.Machine

open Sys2Proof.Safety

/-- The bytes from address `a` on are `bs`, none of them zero, and then a zero byte (20_memory.md R63). -/
def Memory.spells (m : Memory) : Nat → List Byte → Prop
  | a, [] => m.read a = 0
  | a, b :: bs => m.read a = b ∧ b ≠ 0 ∧ Memory.spells m (a + 1) bs

theorem Memory.spells_of_read {m : Memory} {a : Nat} {bs : List Byte}
    (h : ∀ k (hk : k < bs.length), m.read (a + k) = bs[k] ∧ bs[k] ≠ 0) (hend : m.read (a + bs.length) = 0) :
    m.spells a bs := by
  induction bs generalizing a with
  | nil => exact hend
  | cons b bs ih =>
    obtain ⟨hb, hne⟩ := h 0 (Nat.zero_lt_succ _)
    refine ⟨hb, hne, ih (fun k hk => ?_) ?_⟩
    · rw [Nat.add_assoc, Nat.add_comm 1 k]
      exact h (k + 1) (Nat.succ_lt_succ hk)
    · rw [Nat.add_assoc, Nat.add_comm 1]
      exact hend

section
variable {s : State}

theorem exec_txputs_str {k : StrLabel} (hf : s.fgpc = .str k) : exec (.txputs s.arg) s = .next (stringStep k s) := by
  have hp : s.inProgress = some (.txputs s.arg) := by rw [State.inProgress, hf]
  rw [exec_inProgress hp, hf]

theorem stringStep_t1_retire (h : s.str.read s.ptr.toNat = 0) :
    stringStep .t1 s = { s with byte := 0, fgpc := .idle } := by
  simp only [stringStep, h, if_true]

theorem stringStep_t1_enqueue (h : s.str.read s.ptr.toNat ≠ 0) :
    stringStep .t1 s = { s with byte := s.str.read s.ptr.toNat, fgpc := .enq .p0 } := by
  simp only [stringStep, if_neg h]

/-- `PTR` advances modulo 2^16 (40_tx_producer.md R136). -/
theorem stringStep_t2 (s : State) :
    stringStep .t2 s = { s with ptr := BitVec.ofNat 16 ((s.ptr.toNat + 1) % 2 ^ 16), fgpc := .str .t1 } := by
  have hptr : s.ptr + 1 = BitVec.ofNat 16 ((s.ptr.toNat + 1) % 2 ^ 16) := by
    apply BitVec.eq_of_toNat_eq
    simp [BitVec.toNat_add]
  rw [← hptr]
  rfl

/-- One byte of the string, from `T1` to the next `T1`: the embedded enqueue and the advance of `PTR`. -/
theorem runForeground_stringByte (hi : RingInv s) (hf : s.fgpc = .str .t1) (hinstr : s.instr = true)
    (hne : s.str.read s.ptr.toNat ≠ 0) (hroom : incMod s.rbN s.head ≠ s.tail) :
    ∃ t, runForeground 7 s = .next t ∧ RingInv t ∧ t.fgpc = .str .t1 ∧ t.instr = true ∧ t.str = s.str ∧
      t.ptr = s.ptr + 1 ∧ t.rbN = s.rbN ∧ pending t = pending s ++ [s.str.read s.ptr.toNat] := by
  let u : State := { s with byte := s.str.read s.ptr.toNat, fgpc := .enq .p0 }
  have hu : RingInv u := moved_ringInv (.t1Enqueue hf hne) hi
  have henq : runForeground 5 u = .next u.enqueued := runForeground_enqueue hu rfl hroom
  have hback : u.enqueued.fgpc = .str .t2 := by simp [u, State.enqueued, hinstr]
  have hrun : runForeground 7 s = .next (stringStep .t2 u.enqueued) := by
    rw [runForeground_str hf, stringStep_t1_enqueue hne]
    exact (runForeground_add henq 1).trans (runForeground_str hback 0)
  refine ⟨_, hrun, runMoves_ringInv hrun hi, rfl, hinstr, rfl, rfl, List.length_set, ?_⟩
  calc pending (stringStep .t2 u.enqueued)
    _ = pending u.enqueued := pending_congr rfl rfl rfl
    _ = pending u ++ [u.byte] := pending_enqueued hu rfl hroom
    _ = pending s ++ [s.str.read s.ptr.toNat] := congrArg (· ++ [u.byte]) (pending_congr rfl rfl rfl)

/-- `TXPUTS` from `T1` to its end over a string that fits into the free slots (40_tx_producer.md R135 to R137). -/
theorem runForeground_string (bs : List Byte) (hi : RingInv s) (hf : s.fgpc = .str .t1) (hinstr : s.instr = true)
    (hbs : s.str.spells s.ptr.toNat bs) (hwrap : s.ptr.toNat + bs.length < 2 ^ 16)
    (hfits : count s + bs.length < s.rbN) :
    ∃ t, runForeground (7 * bs.length + 1) s = .next t ∧ pending t = pending s ++ bs ∧ t.fgpc = .idle ∧
      t.ptr = s.ptr + BitVec.ofNat 16 bs.length ∧ t.str = s.str := by
  induction bs generalizing s with
  | nil =>
    refine ⟨_, (runForeground_str hf 0).trans (congrArg _ (stringStep_t1_retire hbs)), ?_, rfl, ?_, rfl⟩
    · exact (pending_congr rfl rfl rfl).trans (List.append_nil _).symm
    · simp
  | cons b bs ih =>
    obtain ⟨hb, hne, htail⟩ := hbs
    rw [List.length_cons] at hwrap hfits
    have hroom : incMod s.rbN s.head ≠ s.tail := fun h => by
      have := (count_eq_pred_iff hi).2 h
      omega
    obtain ⟨u, hrun, hu, huf, huinstr, hustr, huptr, hurbN, hupend⟩ :=
      runForeground_stringByte hi hf hinstr (hb ▸ hne) hroom
    have hcount : count u = count s + 1 := count_eq_succ_of_pending hupend
    have hnat : u.ptr.toNat = s.ptr.toNat + 1 := by
      rw [huptr, BitVec.toNat_add]
      exact Nat.mod_eq_of_lt (by simp; omega)
    obtain ⟨t, hrest, hpend, hidle, hptr, hstr⟩ :=
      ih hu huf huinstr (by rwa [hustr, hnat]) (by omega) (by omega)
    refine ⟨t, ?_, ?_, hidle, ?_, hstr.trans hustr⟩
    · rw [List.length_cons, show 7 * (bs.length + 1) + 1 = 7 + (7 * bs.length + 1) by omega]
      exact (runForeground_add hrun _).trans hrest
    · rw [hpend, hupend, hb, List.append_assoc]
      rfl
    · rw [hptr, huptr, List.length_cons]
      apply BitVec.eq_of_toNat_eq
      simp
      omega

end

/-! ### The statements -/

/-- Settles O25: each micro-step by the meaning of the command in progress. -/
theorem txputsMicroSteps : Obligations.TxputsMicroSteps := by
  intro s
  refine ⟨?_, ?_, ?_, ?_, ?_⟩
  · exact fun hf => exec_txputs_str hf
  · exact fun hf hzero => (exec_txputs_str hf).trans (congrArg _ (stringStep_t1_retire hzero))
  · exact fun hf hne => (exec_txputs_str hf).trans (congrArg _ (stringStep_t1_enqueue hne))
  · intro hf hinstr
    refine (exec_enqueuesFor (.inr ⟨hinstr, rfl⟩) hf).trans ((enqueueStep_p4 s).trans ?_)
    rw [if_pos hinstr]
  · exact fun hf => (exec_txputs_str hf).trans (congrArg _ (stringStep_t2 s))

/-- Settles O27: acceptance and `T0`, then the run over the string, by induction on its bytes. -/
theorem txputsRunAppendsString : Obligations.TxputsRunAppendsString := by
  intro s p bs hi hport hready hbs hend hwrap hfits
  obtain ⟨hidle, hhost⟩ := (State.portReady_iff s).1 hport
  have hterm : s.str.terminated p = true :=
    (Memory.terminated_iff s.str p).2 ⟨p.toNat + bs.length, Nat.le_add_right _ _, hwrap, hend⟩
  let u : State := { s.latch p (.str .t0) with instr := true }
  have haccept : perform (.command (0x30000 + p.setWidth 20)) s = .next u := by
    refine (perform_command_encode (i := .txputs p) hport rfl rfl).trans ((execTxputs_idle hidle p).trans ?_)
    rw [hready, if_pos hterm]
    rfl
  have hu : RingInv u := moved_ringInv (.acceptPuts p hidle hhost hready hterm) hi.ring
  have hv : RingInv (stringStep .t0 u) := moved_ringInv (.t0 rfl) hu
  obtain ⟨t, hrun, hpend, hstop, hptr, hstr⟩ :=
    runForeground_string bs hv rfl rfl (Memory.spells_of_read hbs hend) hwrap hfits
  refine ⟨t, ?_, hpend, hstop, hptr, hstr⟩
  rw [show 2 + 7 * bs.length = 7 * bs.length + 1 + 1 by omega]
  exact (runMoves_cons haccept _).trans ((runForeground_str (k := .t0) rfl _).trans hrun)

end Sys2Proof.Machine
end

section
/-! PROOF. The frame of `TXINIT`, `TXPUT` and `TXPUTS` (40_tx_producer.md R139). A frame is one equation: the next state is
the old one but for the named fields, whose new values are left open. -/

namespace Sys2Proof.Machine

open Sys2Proof.Safety

section
variable {s t : State}

/-- `TXINIT` writes `GIE`, `BAUDDIV`, `UCTRL`, `UFRAME` and the indices, and as a command `ARG` and `FGPC`. -/
theorem execTxinit_frame {bd : BitVec 12} (h : execTxinit bd s = .next t) :
    t = { s with
      gie := t.gie, bauddiv := t.bauddiv, uctrl := t.uctrl, uframe := t.uframe, head := t.head, tail := t.tail
      arg := t.arg, fgpc := t.fgpc } := by
  obtain ⟨-, rfl⟩ | ⟨k, -, -, rfl⟩ := execTxinit_next h
  · rfl
  · cases k <;> rfl

/-- Of `UCTRL` `TXINIT` writes `TXEN` and `UDRIE` only. -/
theorem execTxinit_uctrl {bd : BitVec 12} (h : execTxinit bd s = .next t) : t.uctrl &&& 0xD7 = s.uctrl &&& 0xD7 := by
  obtain ⟨-, rfl⟩ | ⟨k, -, -, rfl⟩ := execTxinit_next h
  · rfl
  · cases k with
    | i2 =>
      exact (and_withFlag_other udrieMask 0xD7 _ false (by decide)).trans
        (and_withFlag_other txenMask 0xD7 _ true (by decide))
    | _ => rfl

/-- `TXPUT` and `TXPUTS` write `NEXT`, `BYTE`, the slots, `HEAD`, `UCTRL` and `PTR`, and as commands `ARG`, `FGPC` and
`INSTR`. -/
def PutFrame (s t : State) : Prop :=
  t = { s with
    next := t.next, byte := t.byte, buf := t.buf, head := t.head, uctrl := t.uctrl, ptr := t.ptr
    arg := t.arg, fgpc := t.fgpc, instr := t.instr }

/-- Of the fields that `PutFrame` leaves open: of `UCTRL` only `UDRIE` is written, and of the slots only the slot `NEXT`, at
`P2`. -/
structure PutWrites (s t : State) : Prop where
  frame : PutFrame s t
  uctrl : t.uctrl &&& 0xDF = s.uctrl &&& 0xDF
  buf : s.fgpc ≠ .enq .p2 → t.buf = s.buf
  slot : ∀ k, k ≠ s.next.toNat → t.buf[k]? = s.buf[k]?

/-- A change that touches neither `UCTRL` nor the slots. -/
theorem PutFrame.writes (h : PutFrame s t) (hu : t.uctrl = s.uctrl) (hb : t.buf = s.buf) : PutWrites s t :=
  ⟨h, by rw [hu], fun _ => hb, fun _ _ => by rw [hb]⟩

theorem enqueueStep_writes {k : EnqLabel} (hf : s.fgpc = .enq k) (h : enqueueStep k s = .next t) :
    PutWrites s t ∧ t.ptr = s.ptr := by
  obtain ⟨rfl, rfl⟩ | ⟨rfl, -, rfl⟩ | ⟨rfl, -, rfl⟩ | ⟨rfl, -, rfl⟩ | ⟨rfl, rfl⟩ | ⟨rfl, rfl⟩ := enqueueStep_next h
  · exact ⟨PutFrame.writes rfl rfl rfl, rfl⟩
  · exact ⟨PutFrame.writes rfl rfl rfl, rfl⟩
  · exact ⟨PutFrame.writes rfl rfl rfl, rfl⟩
  · exact ⟨⟨rfl, rfl, fun hne => absurd hf hne, fun _ hk => List.getElem?_set_ne hk.symm⟩, rfl⟩
  · exact ⟨PutFrame.writes rfl rfl rfl, rfl⟩
  · exact ⟨⟨rfl, and_withFlag_other udrieMask 0xDF _ true (by decide), fun _ => rfl, fun _ _ => rfl⟩, rfl⟩

theorem execTxput_writes {b : Byte} (h : execTxput b s = .next t) : PutWrites s t ∧ t.ptr = s.ptr := by
  obtain ⟨-, -, rfl⟩ | ⟨k, hf, -, hstep⟩ := execTxput_next h
  · exact ⟨PutFrame.writes rfl rfl rfl, rfl⟩
  · exact enqueueStep_writes hf hstep

theorem execTxputs_writes {p : Half} (h : execTxputs p s = .next t) : PutWrites s t := by
  obtain ⟨-, -, -, rfl⟩ | ⟨k, hf, -, hstep⟩ | ⟨k, -, -, rfl⟩ := execTxputs_next h
  · exact PutFrame.writes rfl rfl rfl
  · exact (enqueueStep_writes hf hstep).1
  · cases k <;> exact PutFrame.writes rfl rfl rfl

end

/-- Settles O58: each unchanged field is read off the equation of the command's frame. -/
theorem producerFrame : Obligations.ProducerFrame := by
  constructor
  · intro s t bd h
    have hframe := execTxinit_frame h
    exact ⟨congrArg (·.buf) hframe, execTxinit_uctrl h, congrArg (·.ustat) hframe, congrArg (·.txdata) hframe,
      congrArg (·.txlog) hframe, congrArg (·.wire) hframe, congrArg (·.next) hframe, congrArg (·.byte) hframe,
      congrArg (·.ptr) hframe, congrArg (·.result) hframe, congrArg (·.instr) hframe, congrArg (·.dout) hframe,
      ⟨congrArg (·.amux) hframe, congrArg (·.actrl) hframe, congrArg (·.adata) hframe⟩,
      fun a => congrArg (·.str.read a) hframe,
      ⟨congrArg (·.hostpc) hframe, congrArg (·.script) hframe, congrArg (·.draws) hframe⟩⟩
  · intro s t i hi h
    have hptr : (∃ b, i = .txput b) → t.ptr = s.ptr := by
      rintro ⟨b, rfl⟩
      exact (execTxput_writes h).2
    have hwrites : PutWrites s t := by
      obtain ⟨b, rfl⟩ | ⟨p, rfl⟩ := hi
      · exact (execTxput_writes h).1
      · exact execTxputs_writes h
    obtain ⟨hframe, huctrl, hbuf, hslot⟩ := hwrites
    exact ⟨congrArg (·.tail) hframe, huctrl, congrArg (·.uframe) hframe, congrArg (·.bauddiv) hframe,
      congrArg (·.ustat) hframe, congrArg (·.txdata) hframe, congrArg (·.gie) hframe, congrArg (·.txlog) hframe,
      congrArg (·.wire) hframe, congrArg (·.result) hframe, congrArg (·.dout) hframe,
      ⟨congrArg (·.amux) hframe, congrArg (·.actrl) hframe, congrArg (·.adata) hframe⟩,
      fun a => congrArg (·.str.read a) hframe,
      ⟨congrArg (·.hostpc) hframe, congrArg (·.script) hframe, congrArg (·.draws) hframe⟩, hbuf, hslot, hptr⟩

end Sys2Proof.Machine
end

section
/-! PROOF. FIFO order (41_tx_drain.md R161): what each change of state does to the bytes enqueued, the bytes emitted and
the bytes pending. -/

namespace Sys2Proof.Machine

/-- The state after a `DRAIN` that emits `b` (41_tx_drain.md R152). -/
def State.emitted (s : State) (b : Byte) : State := { s with tail := incMod s.rbN s.tail }.writeTxdata b

@[simp] theorem State.emitted_txlog (s : State) (b : Byte) : (s.emitted b).txlog = s.txlog ++ [b] := rfl

@[simp] theorem State.emitted_udre (s : State) (b : Byte) : (s.emitted b).udre = false := State.writeTxdata_udre _ b

end Sys2Proof.Machine

namespace Sys2Proof.Safety

open Sys2Proof.Machine

section
variable {s t : State} {m : Move} {enq out : List Byte}

/-- Only the foreground at `P3` and at `I4` changes what has been enqueued. -/
theorem enqueuedAfter_of_ne (h : m = .foreground → s.fgpc ≠ .enq .p3 ∧ s.fgpc ≠ .init .i4) :
    enqueuedAfter m s enq = enq := by
  unfold enqueuedAfter
  split
  · exact absurd ‹_› (h rfl).1
  · exact absurd ‹_› (h rfl).2
  · rfl

/-- What has been emitted grows with `TXLOG`, but for `I4`, from which on it is counted anew. -/
theorem emittedAfter_of_ne (h : m = .foreground → s.fgpc ≠ .init .i4) :
    emittedAfter m s t out = out ++ t.txlog.drop s.txlog.length := by
  unfold emittedAfter
  split
  · exact absurd ‹_› (h rfl)
  · rfl

/-- A change that neither enqueues, nor emits, nor clears the indices keeps FIFO order. -/
theorem fifoOrder_of_unchanged (horder : enq = out ++ pending s)
    (hm : m = .foreground → s.fgpc ≠ .enq .p3 ∧ s.fgpc ≠ .init .i4) (hlog : t.txlog = s.txlog)
    (hpending : pending t = pending s) : enqueuedAfter m s enq = emittedAfter m s t out ++ pending t := by
  rw [enqueuedAfter_of_ne hm, emittedAfter_of_ne fun h => (hm h).2, hlog, hpending]
  simpa using horder

/-- A `DRAIN` that emits moves the oldest pending byte from the ring buffer (41_tx_drain.md R154). -/
theorem pending_eq_cons_of_emit {b : Byte} (hi : RingInv s) (hne : s.head ≠ s.tail)
    (hb : s.readSlot (incMod s.rbN s.tail) = some b) :
    pending s = b :: pending (s.emitted b) := by
  have hslot := readSlot_eq_getD (incMod_lt hi.slots_pos hi.size.2 s.tail)
  rw [pending_emit hi hne, ← Option.some.inj (hb.symm.trans hslot)]
  exact congrArg (b :: ·) (pending_congr rfl rfl rfl).symm

/-- Every change keeps FIFO order: `P3` appends a byte to both sides, an emission moves one from the pending bytes to
the emitted ones, `I4` empties both sides, and the slot written at `P2` lies outside the pending bytes. -/
theorem fifoOrder_of_movedBy (h : MovedBy s m t) (hi : RingInv s) (horder : enq = out ++ pending s) :
    enqueuedAfter m s enq = emittedAfter m s t out ++ pending t := by
  cases h with
  | p3 hf =>
    rw [emittedAfter_of_ne (by simp [hf]), pending_commitByte hi hf]
    simp [enqueuedAfter, hf, horder]
  | i4 hf =>
    rw [pending_of_head_eq_tail rfl]
    simp [enqueuedAfter, emittedAfter, hf]
  | emit b _ hne hb =>
    change _ = emittedAfter _ s (s.emitted b) out ++ pending (s.emitted b)
    rw [enqueuedAfter_of_ne (by simp), emittedAfter_of_ne (by simp), horder, pending_eq_cons_of_emit hi hne hb]
    simp
  | p2 hf => exact fifoOrder_of_unchanged horder (by simp [hf]) rfl (pending_slotWrite hi hf)
  | notTaken _ hdis =>
    have hidle : m = .foreground → s.fgpc = .idle := by
      rintro rfl
      simpa [State.enabled] using hdis
    exact fifoOrder_of_unchanged horder (fun hm => by simp [hidle hm]) rfl rfl
  | _ => exact fifoOrder_of_unchanged horder (by simp_all) rfl (pending_congr rfl rfl rfl)

end

/-- Settles O37: picking the move touches neither the ring buffer nor `TXLOG`, and each change keeps FIFO order. -/
theorem fifoOrderKept : Obligations.FifoOrderKept := by
  intro s t enq out hi horder hstep
  obtain ⟨ms, n, h⟩ := step_movedBy hstep
  have hkept := fifoOrder_of_movedBy h (inv_schedule hi ms n).ring (out := out) horder
  exact hkept

end Sys2Proof.Safety
end

section
/-! PROOF. `DRAIN` and `TX_SENT` of the family 41_tx_drain.md: their two actions, the round of the two, and the run that
sends every pending byte. -/

namespace Sys2Proof.Machine

open Sys2Proof.Safety

section
variable {s t u : State} {b : Byte} {bs cs : List Byte}

/-! ### The two events -/

/-- The move of `DRAIN` executes it where it is enabled. -/
theorem perform_drain (hen : s.drainEnabled = true) : perform .drain s = exec .drain s :=
  perform_exec (m := .drain) hen rfl

/-- A `DRAIN` on an empty buffer disarms (41_tx_drain.md R152). -/
theorem exec_drain_disarm (hen : s.drainEnabled = true) (he : s.head = s.tail) :
    exec .drain s = .next (s.setUdrie false) :=
  (if_pos hen).trans (if_pos (beq_iff_eq.2 he))

/-- A `DRAIN` on a buffer that is not empty emits the slot after `TAIL` (41_tx_drain.md R152). -/
theorem exec_drain_emit (hen : s.drainEnabled = true) (hne : s.head ≠ s.tail)
    (hb : s.readSlot (incMod s.rbN s.tail) = some b) :
    exec .drain s = .next (s.emitted b) := by
  refine (if_pos hen).trans ?_
  simp [State.drainAction, State.isEmpty, State.emitted, hne, hb]

theorem exec_drain_refused (hoff : s.drainEnabled = false) : exec .drain s = .refused .drainNotEnabled :=
  if_neg (by simp [hoff])

/-- With the indices in range a `DRAIN` on a buffer that is not empty emits the oldest pending byte
(41_tx_drain.md R154). -/
theorem exec_drain_oldest (hi : RingInv s) (hen : s.drainEnabled = true) (hne : s.head ≠ s.tail) :
    ∃ b, exec .drain s = .next (s.emitted b) ∧ pending s = b :: pending (s.emitted b) := by
  have hb := readSlot_eq_getD (incMod_lt hi.slots_pos hi.size.2 s.tail)
  exact ⟨_, exec_drain_emit hen hne hb, pending_eq_cons_of_emit hi hne hb⟩

theorem exec_txSent (hu : s.udre = false) : exec .txSent s = .next s.byteSent :=
  if_pos (by simp [State.txSentEnabled, hu])

theorem exec_txSent_refused (hu : s.udre = true) : exec .txSent s = .refused .txSentNotEnabled :=
  if_neg (by simp [State.txSentEnabled, hu])

theorem perform_txSent (hu : s.udre = false) : perform .txSent s = .next s.byteSent :=
  (perform_exec (m := .txSent) (by simp [State.enabled, State.txSentEnabled, hu]) rfl).trans (exec_txSent hu)

/-! ### Rounds of the two events -/

/-- From `s` to `t` the bytes `bs` have been emitted and sent, and the next `DRAIN` is as enabled as it was. -/
structure Sent (bs : List Byte) (s t : State) : Prop where
  txlog : t.txlog = s.txlog ++ bs
  wire : t.wire = s.wire ++ bs
  head : t.head = s.head
  fgpc : t.fgpc = s.fgpc
  trigger : t.drainEnabled = s.drainEnabled

theorem Sent.refl (s : State) : Sent [] s s := ⟨by simp, by simp, rfl, rfl, rfl⟩

theorem Sent.trans (h : Sent bs s t) (h' : Sent cs t u) : Sent (bs ++ cs) s u where
  txlog := by rw [h'.txlog, h.txlog, List.append_assoc]
  wire := by rw [h'.wire, h.wire, List.append_assoc]
  head := h'.head.trans h.head
  fgpc := h'.fgpc.trans h.fgpc
  trigger := h'.trigger.trans h.trigger

/-- One round on a buffer that is not empty emits and sends the oldest pending byte. -/
theorem runMoves_round (hi : RingInv s) (hen : s.drainEnabled = true) (hne : s.head ≠ s.tail) :
    ∃ t b, runMoves [.drain, .txSent] s = .next t ∧ pending s = b :: pending t ∧ Sent [b] s t := by
  obtain ⟨b, hexec, hpending⟩ := exec_drain_oldest hi hen hne
  obtain ⟨hgie, hudrie, -⟩ := s.drainEnabled_iff.1 hen
  refine ⟨(s.emitted b).byteSent, b, ?_,
    hpending.trans (congrArg (b :: ·) (pending_congr rfl rfl rfl).symm), rfl, rfl, rfl, rfl, ?_⟩
  · exact (runMoves_cons ((perform_drain hen).trans hexec) _).trans
      (runMoves_cons (perform_txSent (s.emitted_udre b)) [])
  · rw [hen]
    exact (State.drainEnabled_iff _).2 ⟨hgie, hudrie, State.byteSent_udre _⟩

/-- As many rounds as there are pending bytes send all of them, by induction on the pending sequence. -/
theorem runMoves_rounds (hi : RingInv s) (hen : s.drainEnabled = true) (hpending : pending s = bs) :
    ∃ t, runMoves (List.replicate bs.length [Move.drain, Move.txSent]).flatten s = .next t ∧
      t.head = t.tail ∧ Sent bs s t := by
  induction bs generalizing s with
  | nil =>
    have hcount : count s = 0 := by rw [← pending_length, hpending, List.length_nil]
    exact ⟨s, rfl, (count_eq_zero_iff hi).1 hcount, .refl s⟩
  | cons b bs ih =>
    have hne : s.head ≠ s.tail := fun he => by simp [pending_of_head_eq_tail he] at hpending
    obtain ⟨u, c, hround, hcons, hsent⟩ := runMoves_round hi hen hne
    obtain ⟨rfl, hrest⟩ := List.cons.inj (hcons.symm.trans hpending)
    obtain ⟨t, hrun, hempty, hsent'⟩ := ih (runMoves_ringInv hround hi) (hsent.trigger.trans hen) hrest
    refine ⟨t, ?_, hempty, hsent.trans hsent'⟩
    rw [List.length_cons, List.replicate_succ, List.flatten_cons, runMoves_append, hround]
    exact hrun

theorem quiescent_iff (s : State) : quiescent s = true ↔ s.fgpc = .idle ∧ pipeline s = .idle ∧ s.udre = true := by
  simp [quiescent, and_assoc]

/-- With the source off no `DRAIN` is enabled. -/
theorem drainEnabled_eq_false (h : s.udrie = false) : s.drainEnabled = false := by
  simp [State.drainEnabled, h]

end

/-! ### The statements -/

/-- Settles O32: the oldest pending byte, and `COUNT` as the length of what is pending. -/
theorem drainEmitsOldestByte : Obligations.DrainEmitsOldestByte := by
  intro s hi hen hne
  obtain ⟨b, hexec, hpending⟩ := exec_drain_oldest hi hen hne
  have hcount := congrArg List.length hpending
  rw [pending_length, List.length_cons, pending_length] at hcount
  exact ⟨_, b, hexec, hpending, rfl, rfl, hcount, rfl, rfl⟩

/-- Settles O34: the rounds send what is pending, and the `DRAIN` after them finds the buffer empty. -/
theorem drainsOncePerByteThenDisarms : Obligations.DrainsOncePerByteThenDisarms := by
  intro s hi hidle hen
  obtain ⟨t, hrun, hempty, hsent⟩ := runMoves_rounds hi.ring hen rfl
  have hen' : t.drainEnabled = true := hsent.trigger.trans hen
  have hoff : (t.setUdrie false).udrie = false := State.setUdrie_udrie t false
  have hdisarm : perform .drain t = .next (t.setUdrie false) :=
    (perform_drain hen').trans (exec_drain_disarm hen' hempty)
  refine ⟨t.setUdrie false, ?_, hsent.txlog, hsent.wire, hsent.head, hempty.symm.trans hsent.head, ?_,
    drainEnabled_eq_false hoff⟩
  · rw [runMoves_append, ← pending_length, hrun]
    exact runMoves_cons hdisarm []
  · exact (quiescent_iff _).2
      ⟨hsent.fgpc.trans hidle, (pipeline_idle_iff _).2 ⟨hoff, hempty⟩, (t.drainEnabled_iff.1 hen').2.2⟩

/-- Settles O43: the source is off, the buffer empty and no byte in flight. -/
theorem quiescentMeansAllSent : Obligations.QuiescentMeansAllSent := by
  intro s hi hq
  obtain ⟨-, hpipe, hu⟩ := (quiescent_iff s).1 hq
  obtain ⟨hoff, hempty⟩ := (pipeline_idle_iff s).1 hpipe
  have hlog := hi.tx.log
  rw [hu] at hlog
  exact ⟨hlog, pending_of_head_eq_tail hempty, exec_drain_refused (drainEnabled_eq_false hoff),
    exec_txSent_refused hu⟩

/-- Settles O29: the trigger is the conjunction of the three flags, and the slot that a `DRAIN` reads exists. -/
theorem drainTrigger : Obligations.DrainTrigger := by
  intro s
  constructor
  · intro hnot
    have hoff : s.drainEnabled = false := by rwa [← Bool.not_eq_true, State.drainEnabled_iff]
    exact ⟨exec_drain_refused hoff, perform_disabled hoff⟩
  · intro hgie hudrie hudre hi
    have hen := s.drainEnabled_iff.2 ⟨hgie, hudrie, hudre⟩
    rw [perform_drain hen]
    by_cases he : s.head = s.tail
    · exact ⟨_, exec_drain_disarm hen he, exec_drain_disarm hen he⟩
    · obtain ⟨b, hexec, -⟩ := exec_drain_oldest hi hen he
      exact ⟨_, hexec, hexec⟩

/-- Settles O30: the two branches, the cleared flag as a mask on its register. -/
theorem drainAction : Obligations.DrainAction :=
  fun _ hen => ⟨exec_drain_disarm hen, fun hne _ hb => exec_drain_emit hen hne hb⟩

/-- Settles O35: where a byte is in flight `TX_SENT` sends it, and where none is it is not enabled. -/
theorem txSentStep : Obligations.TxSentStep :=
  fun s => ⟨exec_txSent, fun hu =>
    ⟨exec_txSent_refused hu, perform_disabled (by simp [State.enabled, State.txSentEnabled, hu])⟩⟩

end Sys2Proof.Machine
end

section
/-! PROOF. The two histories (41_tx_drain.md R160; 20_memory.md R80): which move extends which. -/

namespace Sys2Proof.Machine

open Sys2Proof.Safety

section
variable {s t : State} {m : Move}

/-- `TXDATA` and `TXLOG` are written by a `DRAIN` that emits and `WIRE` by `TX_SENT` only (10_state.md R36, R38). -/
theorem MovedBy.history_cases (h : MovedBy s m t) :
    (t.txdata = s.txdata ∧ t.txlog = s.txlog ∧ t.wire = s.wire) ∨
    (m = .drain ∧ s.udre = true ∧ t.udre = false ∧ t.txlog = s.txlog ++ [t.txdata] ∧ t.wire = s.wire) ∨
    (s.udre = false ∧ t.udre = true ∧ t.txdata = s.txdata ∧ t.txlog = s.txlog ∧ t.wire = s.wire ++ [s.txdata]) := by
  cases h with
  | emit b hen => exact .inr (.inl ⟨rfl, (s.drainEnabled_iff.1 hen).2.2, State.writeTxdata_udre _ b, rfl, rfl⟩)
  | byteSent hu => exact .inr (.inr ⟨hu, State.byteSent_udre s, rfl, rfl, rfl⟩)
  | _ => exact .inl ⟨rfl, rfl, rfl⟩

/-- `TXLOG` is `WIRE` and the one byte in flight, where there is one. -/
theorem wire_of_txInv (hi : TxInv s) :
    s.wire <+: s.txlog ∧ s.txlog.length = s.wire.length + (if s.udre then 0 else 1) := by
  rw [hi.log]
  cases s.udre with
  | true => exact ⟨⟨[], List.append_nil _⟩, rfl⟩
  | false => exact ⟨⟨[s.txdata], rfl⟩, List.length_append⟩

end

/-- Settles O36: the histories after the step by the invariant, what changed by the law of the two histories. -/
theorem wireFollowsTxlog : Obligations.WireFollowsTxlog := by
  intro s t hi hstep
  obtain ⟨ms, n, h⟩ := step_movedBy hstep
  obtain ⟨hwire, hlength⟩ := wire_of_txInv (everyStepKeepsInvariant s t hi hstep).tx
  refine ⟨hwire, hlength, ?_⟩
  obtain ⟨hdata, hlog, hsent⟩ | ⟨hm, hu, hu', hlog, hsent⟩ | ⟨hu, hu', hdata, hlog, hsent⟩ := h.history_cases
  · exact ⟨fun hne => absurd hlog hne, fun hne => absurd hsent hne, fun _ => hdata, fun hne => absurd hdata hne⟩
  · exact ⟨fun _ => ⟨hu, hu', hlog, hsent⟩, fun hne => absurd hsent hne,
      fun hz => absurd (hu.symm.trans hz) (by decide), fun _ => ⟨hu, hm⟩⟩
  · exact ⟨fun hne => absurd hlog hne, fun _ => ⟨hu, hu', hsent, hlog⟩, fun _ => hdata, fun hne => absurd hdata hne⟩

end Sys2Proof.Machine
end

section
/-! PROOF. The pipeline state (41_tx_drain.md R165, R166): which move changes it, from which state and to which. -/

namespace Sys2Proof.Machine

open Sys2Proof.Safety

section
variable {s t : State}

/-- The pipeline state depends on `UDRIE` and emptiness only (41_tx_drain.md R165). -/
theorem pipeline_congr (hu : t.udrie = s.udrie) (he : t.head = t.tail ↔ s.head = s.tail) :
    pipeline t = pipeline s := by
  have hempty : t.isEmpty = s.isEmpty := by
    rw [Bool.eq_iff_iff, State.isEmpty, State.isEmpty, beq_iff_eq, beq_iff_eq, he]
  rw [pipeline, pipeline, hu, hempty]

/-- A change that leaves the buffer not empty, `UDRIE` kept, changes the pipeline state of an empty buffer only. -/
theorem pipeline_of_filled (hchange : pipeline t ≠ pipeline s) (hu : t.udrie = s.udrie) (hne : t.head ≠ t.tail) :
    (pipeline s = .idle ∧ pipeline t = .committed) ∨ (pipeline s = .armedEmpty ∧ pipeline t = .armed) := by
  have he : s.head = s.tail := by_contra fun hns => hchange (pipeline_congr hu (iff_of_false hne hns))
  cases hs : s.udrie with
  | false => exact .inl ⟨(pipeline_idle_iff s).2 ⟨hs, he⟩, (pipeline_committed_iff t).2 ⟨hu.trans hs, hne⟩⟩
  | true => exact .inr ⟨(pipeline_armedEmpty_iff s).2 ⟨hs, he⟩, (pipeline_armed_iff t).2 ⟨hu.trans hs, hne⟩⟩

/-- A change that leaves `UDRIE` 1, emptiness kept, changes the pipeline state only where `UDRIE` was 0. -/
theorem pipeline_of_armed (hchange : pipeline t ≠ pipeline s) (hu : t.udrie = true)
    (he : t.head = t.tail ↔ s.head = s.tail) :
    (pipeline s = .committed ∧ pipeline t = .armed) ∨ (pipeline s = .idle ∧ pipeline t = .armedEmpty) := by
  have hs : s.udrie = false := Bool.eq_false_iff.2 fun hon => hchange (pipeline_congr (hu.trans hon.symm) he)
  by_cases hempty : s.head = s.tail
  · exact .inr ⟨(pipeline_idle_iff s).2 ⟨hs, hempty⟩, (pipeline_armedEmpty_iff t).2 ⟨hu, he.2 hempty⟩⟩
  · exact .inl ⟨(pipeline_committed_iff s).2 ⟨hs, hempty⟩, (pipeline_armed_iff t).2 ⟨hu, mt he.1 hempty⟩⟩

/-- A change that leaves `UDRIE` 0, emptiness kept, changes the pipeline state only where `UDRIE` was 1. -/
theorem pipeline_of_disarmed (hchange : pipeline t ≠ pipeline s) (hu : t.udrie = false)
    (he : t.head = t.tail ↔ s.head = s.tail) :
    (pipeline s = .armed ∧ pipeline t = .committed) ∨ (pipeline s = .armedEmpty ∧ pipeline t = .idle) := by
  have hs : s.udrie = true := by
    by_contra hoff
    exact hchange (pipeline_congr (hu.trans (Bool.eq_false_iff.2 hoff).symm) he)
  by_cases hempty : s.head = s.tail
  · exact .inr ⟨(pipeline_armedEmpty_iff s).2 ⟨hs, hempty⟩, (pipeline_idle_iff t).2 ⟨hu, he.2 hempty⟩⟩
  · exact .inl ⟨(pipeline_armed_iff s).2 ⟨hs, hempty⟩, (pipeline_committed_iff t).2 ⟨hu, mt he.1 hempty⟩⟩

/-- An emission that empties the buffer finds one byte pending. -/
theorem count_eq_one_of_emit {b : Byte} (hi : RingInv s) (hne : s.head ≠ s.tail)
    (hb : s.readSlot (incMod s.rbN s.tail) = some b) (he : s.head = incMod s.rbN s.tail) : count s = 1 := by
  rw [← pending_length, pending_eq_cons_of_emit hi hne hb, pending_of_head_eq_tail he, List.length_singleton]

end

/-- Settles O40: of the moves only those of 41_tx_drain.md R166 change `UDRIE` or emptiness, `P3` and `I4` with `UDRIE`
kept, `P4` and `I2` with emptiness kept, and `DRAIN` one of the two in each branch. -/
theorem pipelineTransitions : Obligations.PipelineTransitions := by
  intro s t hi hstep hchange
  obtain ⟨ms, n, h⟩ := step_movedBy hstep
  generalize s.nextMove = m at h ⊢
  cases h with
  | p3 hf =>
    have hf' : s.fgpc = .enq .p3 := hf
    have hroom : s.next ≠ s.tail := hi.ring.room (by rw [hf']; rfl)
    refine .inl ⟨rfl, ?_⟩
    obtain hlisted | hlisted := pipeline_of_filled hchange rfl hroom <;> simp [hf', hlisted]
  | p4Retire hf | p4Return hf =>
    have hf' : s.fgpc = .enq .p4 := hf
    refine .inl ⟨rfl, ?_⟩
    obtain hlisted | hlisted := pipeline_of_armed hchange (State.setUdrie_udrie _ true) Iff.rfl <;> simp [hf', hlisted]
  | i2 hf =>
    have hf' : s.fgpc = .init .i2 := hf
    refine .inl ⟨rfl, ?_⟩
    obtain hlisted | hlisted := pipeline_of_disarmed hchange (State.setUdrie_udrie _ false) Iff.rfl <;>
      simp [hf', hlisted]
  | i4 hf =>
    have hf' : s.fgpc = .init .i4 := hf
    have hoff : s.udrie = false := (hi.tx.initialising (by rw [hf']; rfl)).2
    have hne : s.head ≠ s.tail := fun he => hchange (pipeline_congr rfl (iff_of_true rfl he))
    exact .inl ⟨rfl, .inr (.inr (.inr (.inr (.inr (.inr
      ⟨hf, (pipeline_committed_iff s).2 ⟨hoff, hne⟩, (pipeline_idle_iff _).2 ⟨hoff, rfl⟩⟩)))))⟩
  | emit b hen hne hb =>
    have hon : s.udrie = true := ((State.drainEnabled_iff _).1 hen).2.1
    have he : s.head = incMod s.rbN s.tail := by_contra fun hleft => hchange (pipeline_congr rfl (iff_of_false hleft hne))
    exact .inr ⟨rfl, .inl ⟨count_eq_one_of_emit hi.ring hne hb he, (pipeline_armed_iff s).2 ⟨hon, hne⟩,
      (pipeline_armedEmpty_iff _).2 ⟨hon, he⟩⟩⟩
  | disarm hen he =>
    have hon : s.udrie = true := ((State.drainEnabled_iff _).1 hen).2.1
    exact .inr ⟨rfl, .inr ⟨(pipeline_armedEmpty_iff s).2 ⟨hon, he⟩,
      (pipeline_idle_iff _).2 ⟨State.setUdrie_udrie _ false, he⟩⟩⟩
  | _ => exact absurd rfl hchange

end Sys2Proof.Machine
end

section
/-! PROOF. The micro-steps of `ADCCFG` and `ADCSAMPLE` and the step `ADC_DONE` of the family 42_adc_sampler.md, the prescaler
codes, and the two refusals at acceptance. -/

namespace Sys2Proof.Machine

open Sys2Proof.Safety

section
variable {s : State} {df : Byte} {code : BitVec 3}

/-! ### The prescaler codes -/

/-- The code of a factor is its exponent of 2 (42_adc_sampler.md R182). -/
theorem eq_shiftLeft_of_psCode (h : psCode df = some code) : df = 1 <<< code.toNat := by
  unfold psCode at h
  (repeat' split at h) <;> cases h <;> assumption

theorem psCode_eq_none (h : df ∉ ([4, 8, 16, 32, 64, 128] : List Byte)) : psCode df = none := by
  simp only [List.mem_cons, List.not_mem_nil, or_false, not_or] at h
  obtain ⟨h4, h8, h16, h32, h64, h128⟩ := h
  rw [psCode, if_neg h4, if_neg h8, if_neg h16, if_neg h32, if_neg h64, if_neg h128]

/-! ### `ADCCFG` -/

/-- The foreground's micro-step of a legal `ADCCFG` (42_adc_sampler.md R181). -/
theorem exec_adccfg {k : CfgLabel} (hf : s.fgpc = .cfg k) (hc : psCode s.argByte = some code) :
    exec (.adccfg s.argByte) s = .next (configStep code k s) := by
  have hp : s.inProgress = some (.adccfg s.argByte) := by rw [State.inProgress, hf]
  rw [exec_inProgress hp, hf]
  simp only [hc]

theorem configStep_c0 (s : State) (code : BitVec 3) :
    configStep code .c0 s =
      { s with amux := (s.amux &&& 0x3F) ||| (Config.refMode.setWidth 8 <<< 6), fgpc := .cfg .c1 } := by
  rw [← State.setRefs_amux_eq]
  rfl

theorem configStep_c1 (s : State) (code : BitVec 3) :
    configStep code .c1 s = { s with actrl := ((s.actrl ||| 0x80) &&& 0xF8) ||| code.setWidth 8, fgpc := .idle } := by
  have hactrl : ((s.setAden true).setAdps code).actrl = ((s.actrl ||| 0x80) &&& 0xF8) ||| code.setWidth 8 :=
    State.setAdps_actrl_eq (s.setAden true) code
  rw [← hactrl]
  rfl

/-! ### `ADCSAMPLE` -/

/-- The foreground's micro-step of `ADCSAMPLE` (42_adc_sampler.md R188 to R191). -/
theorem exec_adcsample {k : SmpLabel} (hf : s.fgpc = .smp k) :
    exec (.adcsample s.argChannel) s = .next (sampleStep k s) := by
  have hp : s.inProgress = some (.adcsample s.argChannel) := by rw [State.inProgress, hf]
  rw [exec_inProgress hp, hf]

theorem sampleStep_s0 (s : State) :
    sampleStep .s0 s = { s with amux := (s.amux &&& 0xF8) ||| s.argChannel.setWidth 8, fgpc := .smp .s1 } := by
  rw [← State.setChsel_amux_eq]
  rfl

theorem sampleStep_s1 (s : State) : sampleStep .s1 s = { s with actrl := s.actrl ||| 0x40, fgpc := .smp .s2 } := rfl

/-- A running conversion is polled again (42_adc_sampler.md R190). -/
theorem sampleStep_s2_busy (h : s.adsc = true) : sampleStep .s2 s = s := if_pos h

theorem sampleStep_s2_done (h : s.adsc = false) : sampleStep .s2 s = { s with fgpc := .smp .s3 } :=
  if_neg (by simp [h])

theorem sampleStep_s3 (s : State) :
    sampleStep .s3 s = { s with result := BitVec.ofNat 16 s.adata.toNat, fgpc := .idle } := by
  rw [BitVec.ofNat_toNat]
  rfl

/-! ### `ADC_DONE` -/

theorem State.conversionDone_eq (s : State) (v : Sample) :
    s.conversionDone v = { s with adata := v, actrl := s.actrl &&& 0xBF } := rfl

theorem exec_adcDone (h : s.adsc = true) (v : Sample) : exec (.adcDone v) s = .next (s.conversionDone v) := if_pos h

theorem exec_adcDone_refused (h : s.adsc = false) (v : Sample) : exec (.adcDone v) s = .refused .adcDoneNotEnabled :=
  if_neg (by simp [State.adcDoneEnabled, h])

theorem perform_adcDone (h : s.adsc = true) (v : Sample) : perform (.adcDone v) s = .next (s.conversionDone v) :=
  (perform_exec (m := .adcDone v) h rfl).trans (exec_adcDone h v)

end

/-! ### The statements -/

/-- Settles O45: the six rows by evaluation; two factors of one code are the same power of 2. -/
theorem prescalerTable : Obligations.PrescalerTable := by
  refine ⟨rfl, rfl, rfl, rfl, rfl, rfl, fun df => psCode_eq_none, fun a b c ha hb => ?_⟩
  rw [eq_shiftLeft_of_psCode ha, eq_shiftLeft_of_psCode hb]

/-- Settles O46: each micro-step by the meaning of the command in progress, with the field writes as one expression. -/
theorem adccfgMicroSteps : Obligations.AdccfgMicroSteps := by
  intro s code hc
  constructor
  · intro hf
    rw [exec_adccfg hf hc, configStep_c0]
  · intro hf
    rw [exec_adccfg hf hc, configStep_c1]

/-- Settles O47: acceptance tests the factor for a code. -/
theorem illegalDivisorRefused : Obligations.IllegalDivisorRefused := by
  intro s df hf hdf
  exact (execAdccfg_idle hf df).trans (by rw [psCode_eq_none hdf]; rfl)

/-- Settles O49: each micro-step by the meaning of the command in progress; a 10-bit value stays below 1024 when widened. -/
theorem adcsampleMicroSteps : Obligations.AdcsampleMicroSteps := by
  intro s
  refine ⟨fun hf => ?_, fun hf => ?_, fun hf hbusy => ?_, fun hf hdone => ?_, fun hf => ⟨?_, ?_⟩⟩
  · exact ⟨_, exec_adcsample hf, sampleStep_s0 s, State.setChsel_refs s _, State.setChsel_chsel s _⟩
  · rw [exec_adcsample hf, sampleStep_s1]
  · rw [exec_adcsample hf, sampleStep_s2_busy hbusy]
  · rw [exec_adcsample hf, sampleStep_s2_done hdone]
  · rw [exec_adcsample hf, sampleStep_s3]
  · rw [BitVec.ofNat_toNat]
    exact Nat.le_of_lt_succ (setWidth_toNat_lt s.adata)

/-- Settles O50: acceptance tests `ADC_READY`. -/
theorem sampleRefusedBeforeConfig : Obligations.SampleRefusedBeforeConfig := by
  intro s ch hf hnot
  exact (execAdcsample_idle hf ch).trans (by rw [hnot]; rfl)

/-- Settles O53: the event is enabled by `ADSC` alone. -/
theorem adcDoneStep : Obligations.AdcDoneStep := by
  intro s v
  refine ⟨fun hbusy => ?_, fun hdone => ⟨exec_adcDone_refused hdone v, perform_disabled hdone⟩⟩
  rw [exec_adcDone hbusy, State.conversionDone_eq]

end Sys2Proof.Machine
end

section
/-! PROOF. The runs of `ADCCFG` and of `ADCSAMPLE` (42_adc_sampler.md R183, R187). -/

namespace Sys2Proof.Machine

open Sys2Proof.Safety

section
variable {s : State} {ms : List Move}

/-- A run goes on after the micro-step of a legal `ADCCFG` at `FGPC`. -/
theorem runMoves_cfg {k : CfgLabel} {code : BitVec 3} (hf : s.fgpc = .cfg k) (hc : psCode s.argByte = some code) :
    runMoves (.foreground :: ms) s = runMoves ms (configStep code k s) :=
  runMoves_cons (by rw [perform_foreground, hf]; simp only [hc]) ms

/-- A run goes on after the micro-step of `ADCSAMPLE` at `FGPC`. -/
theorem runMoves_smp {k : SmpLabel} (hf : s.fgpc = .smp k) :
    runMoves (.foreground :: ms) s = runMoves ms (sampleStep k s) :=
  runMoves_cons (by rw [perform_foreground, hf]) ms

/-- Polls of a running conversion leave the state as it is, however many (42_adc_sampler.md R190). -/
theorem runMoves_polls (hf : s.fgpc = .smp .s2) (hbusy : s.adsc = true) (n : Nat) :
    runMoves (List.replicate n .foreground ++ ms) s = runMoves ms s := by
  induction n with
  | zero => rfl
  | succ n ih =>
    rw [List.replicate_succ, List.cons_append, runMoves_smp hf, sampleStep_s2_busy hbusy]
    exact ih

/-- The channel latched at acceptance reads back (30_encoding.md R106). -/
theorem argChannel_acceptSample (s : State) (ch : BitVec 3) : (s.acceptSample ch).argChannel = ch := by
  show (ch.setWidth 16).extractLsb' 0 3 = ch
  rw [← BitVec.setWidth_eq_extractLsb' (by decide)]
  simp

/-- Setting and then clearing a flag that reads 0 leaves the register as it was (00_scope.md R13). -/
theorem withFlag_clear_set {m r : Byte} (h : flagOf m r = false) : withFlag m (withFlag m r true) false = r := by
  have hzero : r &&& m = 0 := by simpa [flagOf] using h
  ext i hi
  have hbit : r[i] = true → m[i] = false := by simpa using congrArg (fun x : Byte => x[i]) hzero
  cases hr : r[i] with
  | false => simp [withFlag, hr]
  | true => simp [withFlag, hr, hbit hr]

/-- A legal `ADCCFG` from its first label to its end (42_adc_sampler.md R181). -/
theorem runMoves_config {code : BitVec 3} (hf : s.fgpc = .cfg .c0) (hc : psCode s.argByte = some code) :
    runMoves [.foreground, .foreground] s = .next { s with
      amux := (s.setRefs Config.refMode).amux, actrl := ((s.setAden true).setAdps code).actrl, fgpc := .idle } := by
  have hc' : psCode (configStep code .c0 s).argByte = some code := hc
  rw [runMoves_cfg hf hc, runMoves_cfg (k := .c1) rfl hc', configStep_c1, configStep_c0, State.setRefs_amux_eq,
    State.setAdps_actrl_eq]
  rfl

/-- `ADCSAMPLE` from its first label to its end, with a converter that answers `v` after `n` polls
(42_adc_sampler.md R187). -/
theorem runMoves_sample (hf : s.fgpc = .smp .s0) (hdone : s.adsc = false) (n : Nat) (v : Sample) :
    runMoves (.foreground :: .foreground :: (List.replicate n .foreground ++ [.adcDone v, .foreground, .foreground])) s =
      .next { s with
        amux := (s.setChsel s.argChannel).amux, adata := v, result := BitVec.ofNat 16 v.toNat, fgpc := .idle } := by
  have hbusy : (sampleStep .s1 (sampleStep .s0 s)).adsc = true := State.setAdsc_adsc _ true
  have hactrl : (s.actrl ||| 0x40) &&& 0xBF = s.actrl := withFlag_clear_set hdone
  rw [runMoves_smp hf, runMoves_smp (k := .s1) rfl, runMoves_polls rfl hbusy, runMoves_cons (perform_adcDone hbusy v),
    runMoves_smp (k := .s2) rfl, sampleStep_s2_done (State.conversionDone_adsc _ v), runMoves_smp (k := .s3) rfl,
    sampleStep_s3, State.conversionDone_eq, sampleStep_s1]
  simp only [sampleStep, State.goto, State.setChsel, hactrl]
  rfl

end

/-! ### The statements -/

/-- Settles O48: acceptance and the two micro-steps; the postcondition is read off the field writes. -/
theorem adccfgRunLeavesPostcondition : Obligations.AdccfgRunLeavesPostcondition := by
  intro s df code hport hc
  obtain ⟨hidle, -⟩ := (State.portReady_iff s).1 hport
  have haccept : perform (.command (0x40000 + df.setWidth 20)) s = .next (s.latch (df.setWidth 16) (.cfg .c0)) :=
    (perform_command_encode (i := .adccfg df) hport rfl rfl).trans
      ((execAdccfg_idle hidle df).trans (if_pos (by rw [hc]; rfl)))
  have hlatched : psCode (s.latch (df.setWidth 16) (.cfg .c0)).argByte = some code := by rw [argByte_latch, hc]
  refine ⟨_, (runMoves_cons haccept _).trans (runMoves_config rfl hlatched), ?_, State.setRefs_refs s Config.refMode,
    State.setRefs_chsel s Config.refMode, State.setAdps_adps (s.setAden true) code,
    (State.setAdps_adsc (s.setAden true) code).trans (State.setAden_adsc s true), ?_⟩
  · rw [State.setRefs_amux_eq, State.setAdps_actrl_eq, ← hidle]
    rfl
  · have haden := (State.setAdps_aden (s.setAden true) code).trans (State.setAden_aden s true)
    exact (State.adcReady_iff _).2 ⟨haden, by simp⟩

/-- Settles O51: acceptance, then the run from `S0`; the channel is the one latched. -/
theorem adcsampleRunReturnsValue : Obligations.AdcsampleRunReturnsValue := by
  intro s ch v n hport hready hdone
  obtain ⟨hidle, -⟩ := (State.portReady_iff s).1 hport
  have haccept : perform (.command (0x50000 + ch.setWidth 20)) s = .next (s.acceptSample ch) :=
    (perform_command_encode (i := .adcsample ch) hport rfl rfl).trans
      ((execAdcsample_idle hidle ch).trans (if_pos hready))
  have hrun := runMoves_sample (s := s.acceptSample ch) rfl hdone n v
  rw [argChannel_acceptSample] at hrun
  refine ⟨_, (runMoves_cons haccept _).trans hrun, ?_, State.setChsel_refs s ch, State.setChsel_chsel s ch⟩
  rw [State.setChsel_amux_eq, ← hidle]
  rfl

end Sys2Proof.Machine
end

section
/-! PROOF. A conversion that never ends (42_adc_sampler.md R194): what the agents that can still move leave unchanged, and
that no move but `ADC_DONE` gets the foreground out of `S2`. -/

namespace Sys2Proof.Machine

open Sys2Proof.Safety

/-- What no move but `ADC_DONE` changes while the foreground polls: its place, the running conversion, and `RESULT`. -/
structure SamePoll (s t : State) : Prop where
  fgpc : t.fgpc = s.fgpc
  adsc : t.adsc = s.adsc
  result : t.result = s.result

section
variable {s t u : State}

theorem SamePoll.refl (s : State) : SamePoll s s := ⟨rfl, rfl, rfl⟩

theorem SamePoll.trans (h : SamePoll s t) (h' : SamePoll t u) : SamePoll s u where
  fgpc := h'.fgpc.trans h.fgpc
  adsc := h'.adsc.trans h.adsc
  result := h'.result.trans h.result

/-- A polling foreground spins and stands at no label where the host may act on the port or on `GIE`; `DRAIN`, the
transmitter and the host's writes of `STR` touch nothing of the conversion, and a `DRAIN` finds its slot. -/
theorem perform_of_polling (hi : RingInv s) (hf : s.fgpc = .smp .s2) (hbusy : s.adsc = true) {m : Move}
    (hm : ∀ v, m ≠ .adcDone v) : ∃ t, perform m s = .next t ∧ SamePoll s t := by
  have hidle : s.fgpc ≠ .idle := by simp [hf]
  cases m with
  | foreground => exact ⟨s, by rw [perform_foreground, hf]; exact congrArg _ (sampleStep_s2_busy hbusy), .refl s⟩
  | command w => exact ⟨s, perform_command_of_busy hidle w, .refl s⟩
  | report => exact ⟨s, perform_disabled (by simpa [State.enabled] using hidle), .refl s⟩
  | writeGie b => exact ⟨s, perform_disabled (by simpa [State.enabled] using hidle), .refl s⟩
  | adcDone v => exact absurd rfl (hm v)
  | drain =>
    cases hen : s.drainEnabled with
    | false => exact ⟨s, perform_disabled hen, .refl s⟩
    | true =>
      rw [perform_drain hen]
      by_cases he : s.head = s.tail
      · exact ⟨_, exec_drain_disarm hen he, ⟨rfl, rfl, rfl⟩⟩
      · obtain ⟨b, hemit, -⟩ := exec_drain_oldest hi hen he
        exact ⟨_, hemit, ⟨rfl, rfl, rfl⟩⟩
  | txSent =>
    cases hu : s.udre with
    | true => exact ⟨s, perform_disabled (by simp [State.enabled, State.txSentEnabled, hu]), .refl s⟩
    | false => exact ⟨_, perform_txSent hu, ⟨rfl, rfl, rfl⟩⟩
  | storeStr a v =>
    refine ⟨_, perform_storeStr a v s, ?_⟩
    split
    · exact .refl s
    · exact ⟨rfl, rfl, rfl⟩

/-- A polling foreground polls on under every schedule without an `ADC_DONE`. -/
theorem runMoves_of_polling {ms : List Move} (hi : RingInv s) (hf : s.fgpc = .smp .s2) (hbusy : s.adsc = true)
    (hms : ∀ v, Move.adcDone v ∉ ms) : ∃ t, runMoves ms s = .next t ∧ SamePoll s t := by
  induction ms generalizing s with
  | nil => exact ⟨s, rfl, .refl s⟩
  | cons m ms ih =>
    have hm : ∀ v, m ≠ .adcDone v := fun v hv => hms v (hv ▸ List.mem_cons_self)
    obtain ⟨u, hu, hsu⟩ := perform_of_polling hi hf hbusy hm
    obtain ⟨t, ht, hut⟩ := ih (moved_ringInv (perform_moved hu) hi) (hsu.fgpc.trans hf) (hsu.adsc.trans hbusy)
      fun v hv => hms v (List.mem_cons_of_mem m hv)
    exact ⟨t, (runMoves_cons hu ms).trans ht, hsu.trans hut⟩

end

/-- Settles O52: induction over the schedule; the ring buffer's invariant keeps the interrupt from faulting. -/
theorem sampleHangsWithoutConverter : Obligations.SampleHangsWithoutConverter := by
  intro s ms hi hf hbusy hms
  obtain ⟨t, hrun, hsame⟩ := runMoves_of_polling hi.ring hf hbusy hms
  exact ⟨t, hrun, hsame.fgpc.trans hf, hsame.adsc.trans hbusy, hsame.result⟩

end Sys2Proof.Machine
end

section
/-! PROOF. The frame of `ADCCFG`, `ADCSAMPLE` and `ADC_DONE` (42_adc_sampler.md R198), as one equation, and the bits of the
converter registers that each of them writes. -/

namespace Sys2Proof.Machine

open Sys2Proof.Safety

section
variable {s t : State}

/-- The sampler writes the converter registers and `RESULT`, and as commands `ARG` and `FGPC`. -/
def ConverterFrame (s t : State) : Prop :=
  t = { s with
    amux := t.amux, actrl := t.actrl, adata := t.adata, result := t.result, arg := t.arg, fgpc := t.fgpc }

theorem execAdccfg_frame {df : Byte} (h : execAdccfg df s = .next t) : ConverterFrame s t := by
  obtain ⟨code, -, ⟨-, rfl⟩ | ⟨k, -, -, rfl⟩⟩ := execAdccfg_next h
  · rfl
  · cases k <;> rfl

/-- `ADCCFG` writes `REFS` of `AMUX` and `ADEN` and `ADPS` of `ACTRL`. -/
theorem execAdccfg_keeps {df : Byte} (h : execAdccfg df s = .next t) :
    t.amux &&& 0x3F = s.amux &&& 0x3F ∧ t.actrl &&& 0x78 = s.actrl &&& 0x78 ∧ t.adata = s.adata ∧
      t.result = s.result := by
  obtain ⟨code, -, ⟨-, rfl⟩ | ⟨k, -, -, rfl⟩⟩ := execAdccfg_next h
  · exact ⟨rfl, rfl, rfl, rfl⟩
  · cases k with
    | c0 => exact ⟨and_withField_other refsMask 0x3F _ _ (by decide), rfl, rfl, rfl⟩
    | c1 =>
      exact ⟨rfl, (and_withField_other adpsMask 0x78 _ _ (by decide)).trans
        (and_withFlag_other adenMask 0x78 _ true (by decide)), rfl, rfl⟩

theorem execAdcsample_frame {ch : BitVec 3} (h : execAdcsample ch s = .next t) : ConverterFrame s t := by
  obtain ⟨-, -, rfl⟩ | ⟨k, -, -, rfl⟩ := execAdcsample_next h
  · rfl
  · cases k with
    | s2 =>
      cases ha : s.adsc with
      | false => rw [sampleStep_s2_done ha]; rfl
      | true => rw [sampleStep_s2_busy ha]; rfl
    | _ => rfl

/-- `ADCSAMPLE` writes `CHSEL` of `AMUX` and `ADSC` of `ACTRL`. -/
theorem execAdcsample_keeps {ch : BitVec 3} (h : execAdcsample ch s = .next t) :
    t.amux &&& 0xF8 = s.amux &&& 0xF8 ∧ t.actrl &&& 0xBF = s.actrl &&& 0xBF ∧ t.adata = s.adata := by
  obtain ⟨-, -, rfl⟩ | ⟨k, -, -, rfl⟩ := execAdcsample_next h
  · exact ⟨rfl, rfl, rfl⟩
  · cases k with
    | s0 => exact ⟨and_withField_other chselMask 0xF8 _ _ (by decide), rfl, rfl⟩
    | s1 => exact ⟨rfl, and_withFlag_other adscMask 0xBF _ true (by decide), rfl⟩
    | s2 =>
      cases ha : s.adsc with
      | false => rw [sampleStep_s2_done ha]; exact ⟨rfl, rfl, rfl⟩
      | true => rw [sampleStep_s2_busy ha]; exact ⟨rfl, rfl, rfl⟩
    | s3 => exact ⟨rfl, rfl, rfl⟩

theorem execAdcDone_frame {v : Sample} (h : execAdcDone v s = .next t) : ConverterFrame s t := by
  obtain ⟨-, rfl⟩ := execAdcDone_next h
  rfl

/-- `ADC_DONE` writes `ADSC` and `ADATA`. -/
theorem execAdcDone_keeps {v : Sample} (h : execAdcDone v s = .next t) :
    t.amux = s.amux ∧ t.actrl &&& 0xBF = s.actrl &&& 0xBF ∧ sameForeground s t := by
  obtain ⟨-, rfl⟩ := execAdcDone_next h
  exact ⟨rfl, and_withFlag_other adscMask 0xBF _ false (by decide), rfl, rfl, rfl, rfl, rfl, rfl, rfl⟩

end

/-- Settles O59: each unchanged field is read off the equation of the frame, the bits off each one's own writes. -/
theorem samplerFrame : Obligations.SamplerFrame := by
  intro s t i hi h
  have hframe : ConverterFrame s t := by
    obtain ⟨df, rfl⟩ | ⟨ch, rfl⟩ | ⟨v, rfl⟩ := hi
    · exact execAdccfg_frame h
    · exact execAdcsample_frame h
    · exact execAdcDone_frame h
  refine ⟨⟨congrArg (·.buf) hframe, congrArg (·.head) hframe, congrArg (·.tail) hframe⟩,
    ⟨congrArg (·.uctrl) hframe, congrArg (·.uframe) hframe, congrArg (·.bauddiv) hframe, congrArg (·.ustat) hframe,
      congrArg (·.txdata) hframe, congrArg (·.gie) hframe, congrArg (·.txlog) hframe, congrArg (·.wire) hframe⟩,
    congrArg (·.next) hframe, congrArg (·.byte) hframe, congrArg (·.ptr) hframe, congrArg (·.instr) hframe,
    congrArg (·.dout) hframe, fun a => congrArg (·.str.read a) hframe,
    ⟨congrArg (·.hostpc) hframe, congrArg (·.script) hframe, congrArg (·.draws) hframe⟩, ?_, ?_, ?_⟩
  · rintro ⟨df, rfl⟩
    exact execAdccfg_keeps h
  · rintro ⟨ch, rfl⟩
    exact execAdcsample_keeps h
  · rintro ⟨v, rfl⟩
    exact execAdcDone_keeps h

end Sys2Proof.Machine
end

section
/-! PROOF. `dec(v)` (43_host_periodic_task.md R213): its last digit and the digits before it, and what they spell. -/

namespace Sys2Proof.Machine

theorem digitByte_toNat {d : Nat} (h : d < 10) : (digitByte d).toNat = 0x30 + d := by
  rw [digitByte, BitVec.toNat_ofNat]
  omega

theorem digitByte_ne_zeroDigit {d : Nat} (hne : d ≠ 0) (h : d < 10) : digitByte d ≠ 0x30 := fun heq => by
  have hcode : 0x30 + d = 0x30 := (digitByte_toNat h).symm.trans (congrArg BitVec.toNat heq)
  omega

theorem decimal_ne_nil (v : Nat) : decimal v ≠ [] := by
  simp only [decimal]
  split_ifs <;> exact List.cons_ne_nil _ _

theorem decimal_of_lt {v : Nat} (h : v < 10) : decimal v = [digitByte v] := by
  have h3 : v / 1000 = 0 := by omega
  have h2 : v / 100 % 10 = 0 := by omega
  have h1 : v / 10 % 10 = 0 := by omega
  simp only [decimal, h3, h2, h1, Nat.mod_eq_of_lt h, ne_eq, not_true, if_false]

/-- The last digit is the remainder by 10, the digits before it are those of the quotient. -/
theorem decimal_of_ge {v : Nat} (h : 10 ≤ v) (hlt : v < 10000) :
    decimal v = decimal (v / 10) ++ [digitByte (v % 10)] := by
  have h3 : v / 10 / 1000 = 0 := by omega
  have h2 : v / 10 / 100 % 10 = v / 1000 := by omega
  have h1 : v / 10 / 10 % 10 = v / 100 % 10 := by omega
  simp only [decimal, h3, h2, h1, ne_eq, not_true, if_false]
  split
  · rfl
  · split
    · rfl
    · rw [if_pos (by omega)]
      rfl

/-- Settles O55, digit by digit: strong induction on `v`, from the quotient by 10 to `v`. -/
theorem decimalDigits : Obligations.DecimalDigits := by
  intro v
  induction v using Nat.strong_induction_on with
  | _ v ih =>
    intro hv
    rcases Nat.lt_or_ge v 10 with hlt | hge
    · have hd := digitByte_toNat hlt
      rw [decimal_of_lt hlt]
      refine ⟨by simp [hd], fun c hc => ?_, fun hne heq => ?_, (if_pos (by omega)).symm⟩
      · rw [List.mem_singleton.1 hc, hd]
        omega
      · exact digitByte_ne_zeroDigit hne hlt (Option.some.inj heq)
    · obtain ⟨hvalue, hdigits, hhead, hlength⟩ := ih (v / 10) (by omega) (by omega)
      have hd := digitByte_toNat (Nat.mod_lt v (by decide : 0 < 10))
      rw [decimal_of_ge hge (by omega)]
      refine ⟨?_, fun c hc => ?_, fun _ heq => ?_, ?_⟩
      · rw [List.foldl_append, hvalue, List.foldl_cons, List.foldl_nil, hd]
        omega
      · rcases List.mem_append.1 hc with hc | hc
        · exact hdigits c hc
        · rw [List.mem_singleton.1 hc, hd]
          omega
      · rw [List.head?_append_of_ne_nil _ (decimal_ne_nil _)] at heq
        exact hhead (by omega) heq
      · rw [List.length_append, hlength, List.length_singleton]
        split_ifs <;> omega

end Sys2Proof.Machine
end

section
/-! PROOF. `REPORT` (43_host_periodic_task.md R210 to R215): the host's step at each of its places, and the run of one whole
report. -/

namespace Sys2Proof.Machine

open Sys2Proof.Safety

section
variable {s : State} {c : Byte} {rest : List Byte}

/-! ### The host's step at each place -/

theorem execReport_idle (hf : s.fgpc = .idle) (hh : s.hostpc = .idle) :
    execReport s =
      if !s.adcReady then .refused .adcNotReady
      else if !s.txReady then .refused .txNotReady
      else .next { s.acceptSample Config.reportCh with hostpc := .sampling } := by
  rw [execReport, if_pos hf, hh]

theorem execReport_sampling (hf : s.fgpc = .idle) (hh : s.hostpc = .sampling) :
    execReport s = .next s.reportDecide := by
  rw [execReport, if_pos hf, hh]

theorem execReport_sending (hf : s.fgpc = .idle) (hh : s.hostpc = .sending c rest) :
    execReport s =
      if s.txReady then .next { s.acceptPut c with hostpc := HostPc.ofRest rest } else .refused .txNotReady := by
  rw [execReport, if_pos hf, hh]

theorem perform_report (hf : s.fgpc = .idle) : perform .report s = execReport s :=
  perform_exec (m := .report) (by rw [State.enabled, hf]; rfl) rfl

theorem exists_reportBytes_eq_cons (v : Nat) : ∃ c rest, reportBytes v = c :: rest :=
  List.exists_cons_of_ne_nil (List.append_ne_nil_of_right_ne_nil _ (List.cons_ne_nil _ _))

/-! ### The run of a report -/

theorem runMoves_append_next {t : State} {xs : List Move} (h : runMoves xs s = .next t) (ys : List Move) :
    runMoves (xs ++ ys) s = runMoves ys t := by
  rw [runMoves_append, h]

/-- No conversion runs while the foreground is idle (42_adc_sampler.md R193). -/
theorem adsc_eq_false_of_idle (hi : AdcInv s) (hf : s.fgpc = .idle) : s.adsc = false := by
  cases h : s.adsc with
  | false => rfl
  | true => exact absurd (hf.symm.trans (hi.converting h)) (by simp)

/-- The sample and the decision (43_host_periodic_task.md R210, R212): `RESULT` is the value the converter answers, and
`DOUT` and the line to send follow from it. -/
theorem runMoves_reportDecision (hf : s.fgpc = .idle) (hh : s.hostpc = .idle) (hadc : s.adcReady = true)
    (htx : s.txReady = true) (hdone : s.adsc = false) (v : Sample) :
    ∃ t, runMoves [.report, .foreground, .foreground, .adcDone v, .foreground, .foreground, .report] s = .next t ∧
      t.dout = decide (v.toNat > 512) ∧ t.result = BitVec.ofNat 16 v.toNat ∧
      t.hostpc = HostPc.ofRest (reportBytes v.toNat) ∧ t.fgpc = .idle ∧
      t.buf = s.buf ∧ t.head = s.head ∧ t.tail = s.tail ∧ t.txen = s.txen := by
  let u : State := { s.acceptSample Config.reportCh with hostpc := .sampling }
  have haccept : perform .report s = .next u :=
    (perform_report hf).trans ((execReport_idle hf hh).trans (by rw [hadc, htx]; rfl))
  have hsample := runMoves_sample (s := u) rfl hdone 0 v
  let w : State := { u with
    amux := (u.setChsel u.argChannel).amux, adata := v, result := BitVec.ofNat 16 v.toNat, fgpc := .idle }
  have hdecide : perform .report w = .next w.reportDecide := (perform_report rfl).trans (execReport_sampling rfl rfl)
  have hvalue : (BitVec.ofNat 16 v.toNat).toNat = v.toNat := by
    rw [BitVec.toNat_ofNat]
    exact Nat.mod_eq_of_lt (Nat.lt_trans v.isLt (by decide))
  refine ⟨_, (runMoves_cons haccept _).trans ((runMoves_append_next hsample [.report]).trans (runMoves_cons hdecide [])),
    ?_, rfl, ?_, rfl, rfl, rfl, rfl, rfl⟩
  · exact congrArg (fun n => decide (Config.threshold < n)) hvalue
  · exact congrArg (fun n => HostPc.ofRest (reportBytes n)) hvalue

/-- The state after one byte of the line has been presented and enqueued on a buffer with room
(43_host_periodic_task.md R210). -/
def State.reported (s : State) (c : Byte) (rest : List Byte) : State :=
  State.enqueued { s.acceptPut c with hostpc := HostPc.ofRest rest }

theorem State.reported_txen (s : State) (c : Byte) (rest : List Byte) : (s.reported c rest).txen = s.txen :=
  State.setUdrie_txen s true

theorem State.reported_rbN (s : State) (c : Byte) (rest : List Byte) : (s.reported c rest).rbN = s.rbN :=
  List.length_set

/-- One byte of the line, from its presentation to the end of its `TXPUT`. -/
theorem runMoves_reportByte (hi : RingInv s) (hf : s.fgpc = .idle) (hh : s.hostpc = .sending c rest)
    (hready : s.txReady = true) (hroom : incMod s.rbN s.head ≠ s.tail) :
    runMoves (.report :: List.replicate 5 .foreground) s = .next (s.reported c rest) ∧
      pending (s.reported c rest) = pending s ++ [c] := by
  have hu : RingInv { s.acceptPut c with hostpc := HostPc.ofRest rest } :=
    moved_ringInv (.reportPut c rest hf hh hready) hi
  have hpresent : perform .report s = .next { s.acceptPut c with hostpc := HostPc.ofRest rest } :=
    (perform_report hf).trans ((execReport_sending hf hh).trans (if_pos hready))
  exact ⟨(runMoves_cons hpresent _).trans (runForeground_enqueue hu rfl hroom), pending_enqueued hu rfl hroom⟩

/-- A line that fits into the free slots is enqueued byte by byte (43_host_periodic_task.md R210, R215). -/
theorem runMoves_reportLine (bs : List Byte) (hi : RingInv s) (hf : s.fgpc = .idle)
    (hh : s.hostpc = HostPc.ofRest bs) (hen : s.txen = true) (hfits : count s + bs.length < s.rbN) :
    ∃ t, runMoves (List.replicate bs.length (.report :: List.replicate 5 .foreground)).flatten s = .next t ∧
      t.dout = s.dout ∧ t.result = s.result ∧ pending t = pending s ++ bs ∧ t.fgpc = .idle ∧ t.hostpc = .idle := by
  induction bs generalizing s with
  | nil => exact ⟨s, rfl, rfl, rfl, (List.append_nil _).symm, hf, hh⟩
  | cons b bs ih =>
    rw [List.length_cons] at hfits
    have hready : s.txReady = true := (State.txReady_iff s).2 ⟨hen, by simp [hf]⟩
    have hroom : incMod s.rbN s.head ≠ s.tail := fun h => by
      have := (count_eq_pred_iff hi).2 h
      omega
    obtain ⟨hrun, hpend⟩ := runMoves_reportByte hi hf hh hready hroom
    have hcount : count (s.reported b bs) = count s + 1 := count_eq_succ_of_pending hpend
    obtain ⟨t, hrest, hdout, hresult, hline, hidle, hhost⟩ :=
      ih (s := s.reported b bs) (runMoves_ringInv hrun hi) rfl rfl ((s.reported_txen b bs).trans hen)
        (by rw [hcount, s.reported_rbN]; omega)
    refine ⟨t, (runMoves_append_next hrun _).trans hrest, hdout, hresult, ?_, hidle, hhost⟩
    rw [hline, hpend, List.append_assoc]
    rfl

end

/-! ### The statements -/

/-- Settles O54: the host's step at each of its three places, with each precondition true or false. -/
theorem reportSteps : Obligations.ReportSteps := by
  intro s hf
  refine ⟨fun hh hadc htx => ?_, fun hh hadc => ?_, fun hh hadc htx => ?_, fun hh => ?_, fun c rest hh htx => ?_,
    fun c rest hh htx => ?_⟩
  · exact (execReport_idle hf hh).trans (by rw [hadc, htx]; rfl)
  · exact (execReport_idle hf hh).trans (by rw [hadc]; rfl)
  · exact (execReport_idle hf hh).trans (by rw [hadc, htx]; rfl)
  · obtain ⟨c, rest, hline⟩ := exists_reportBytes_eq_cons s.result.toNat
    refine ⟨_, c, rest, execReport_sampling hf hh, hline, ?_⟩
    rw [State.reportDecide, hline]
    rfl
  · refine (execReport_sending hf hh).trans ((if_pos htx).trans ?_)
    cases rest <;> rfl
  · exact (execReport_sending hf hh).trans (by rw [htx]; rfl)

/-- Settles O56: the sample and the decision leave ring buffer and readiness as they were, then the line is enqueued. -/
theorem reportRunEnqueuesLine : Obligations.ReportRunEnqueuesLine := by
  intro s v hi hport hadc htx hfits
  obtain ⟨hidle, hhost⟩ := (State.portReady_iff s).1 hport
  obtain ⟨htxen, -⟩ := (State.txReady_iff s).1 htx
  obtain ⟨u, hdecide, hdout, hresult, hhost', hidle', hbuf, hhead, htail, hen⟩ :=
    runMoves_reportDecision hidle hhost hadc htx (adsc_eq_false_of_idle hi.adc hidle) v
  have hpend : pending u = pending s := pending_congr hbuf hhead htail
  have hcount : count u = count s := by rw [← pending_length, hpend, pending_length]
  have hslots : u.rbN = s.rbN := congrArg List.length hbuf
  obtain ⟨t, hline, hdout', hresult', hpend', hidle'', hhost''⟩ :=
    runMoves_reportLine (reportBytes v.toNat) (runMoves_ringInv hdecide hi.ring) hidle' hhost' (hen.trans htxen)
      (by rwa [hcount, hslots])
  refine ⟨t, (runMoves_append_next hdecide _).trans hline, hdout'.trans hdout, hresult'.trans hresult, ?_, hidle'',
    hhost''⟩
  rw [hpend', hpend, reportBytes, List.append_assoc]

end Sys2Proof.Machine
end

section
/-! PROOF. When a meaning refuses (60_exceptions.md R232): the counterpart of the inversion lemmas for a next state, for the
commands and `REPORT` at `FGPC = IDLE`, and that in a state of the invariant no other move refuses. -/

namespace Sys2Proof.Machine

open Sys2Proof.Safety

section
variable {s : State} {r : Refusal}

/-! ### The commands and `REPORT` at `FGPC = IDLE` -/

theorem execTxinit_ne_refused (hf : s.fgpc = .idle) (bd : BitVec 12) : execTxinit bd s ≠ .refused r := by
  rw [execTxinit_idle hf]
  simp

theorem execTxput_refused {b : Byte} (hf : s.fgpc = .idle) (h : execTxput b s = .refused r) :
    s.txReady = false ∧ r = .txNotReady := by
  rw [execTxput_idle hf] at h
  split at h
  · cases h
  · cases h
    exact ⟨Bool.eq_false_iff.2 ‹_›, rfl⟩

theorem execTxputs_refused {p : Half} (hf : s.fgpc = .idle) (h : execTxputs p s = .refused r) :
    (s.txReady = false ∧ r = .txNotReady) ∨
    (s.txReady = true ∧ s.str.terminated p = false ∧ r = .unterminatedString) := by
  rw [execTxputs_idle hf] at h
  cases hready : s.txReady with
  | false =>
    rw [hready] at h
    cases h
    exact .inl ⟨rfl, rfl⟩
  | true =>
    cases hends : s.str.terminated p with
    | false =>
      rw [hready, hends] at h
      cases h
      exact .inr ⟨rfl, rfl, rfl⟩
    | true =>
      rw [hready, hends] at h
      cases h

theorem execAdccfg_refused {df : Byte} (hf : s.fgpc = .idle) (h : execAdccfg df s = .refused r) :
    psCode df = none ∧ r = .illegalDivisor := by
  rw [execAdccfg_idle hf] at h
  split at h
  · cases h
  · cases h
    exact ⟨Option.not_isSome_iff_eq_none.1 ‹_›, rfl⟩

theorem execAdcsample_refused {ch : BitVec 3} (hf : s.fgpc = .idle) (h : execAdcsample ch s = .refused r) :
    s.adcReady = false ∧ r = .adcNotReady := by
  rw [execAdcsample_idle hf] at h
  split at h
  · cases h
  · cases h
    exact ⟨Bool.eq_false_iff.2 ‹_›, rfl⟩

/-- `REPORT` refuses where it begins, without one of its two preconditions, and where it presents a byte, without
`TX_READY`; its deciding step never does (43_host_periodic_task.md R210). -/
theorem execReport_refused (hf : s.fgpc = .idle) (h : execReport s = .refused r) :
    (s.hostpc = .idle ∧ s.adcReady = false ∧ r = .adcNotReady) ∨ (s.txReady = false ∧ r = .txNotReady) := by
  cases hh : s.hostpc with
  | idle =>
    rw [execReport_idle hf hh] at h
    cases hadc : s.adcReady with
    | false =>
      rw [hadc] at h
      cases h
      exact .inl ⟨rfl, rfl, rfl⟩
    | true =>
      cases htx : s.txReady with
      | false =>
        rw [hadc, htx] at h
        cases h
        exact .inr ⟨rfl, rfl⟩
      | true =>
        rw [hadc, htx] at h
        cases h
  | sampling =>
    rw [execReport_sampling hf hh] at h
    cases h
  | sending c rest =>
    rw [execReport_sending hf hh] at h
    split at h
    · cases h
    · cases h
      exact .inr ⟨Bool.eq_false_iff.2 ‹_›, rfl⟩

/-- A word at a ready port is refused only if it is reserved or its command breaks that command's precondition. -/
theorem exec_decode_refused {w : Cmd} (hf : s.fgpc = .idle) (h : exec (decode w) s = .refused r) :
    (decode w = .reserved w ∧ r = .reservedWord) ∨
    (∃ df, decode w = .adccfg df ∧ psCode df = none ∧ r = .illegalDivisor) ∨
    (((∃ b, decode w = .txput b) ∨ ∃ p, decode w = .txputs p) ∧ s.txReady = false ∧ r = .txNotReady) ∨
    (∃ p, decode w = .txputs p ∧ s.txReady = true ∧ s.str.terminated p = false ∧ r = .unterminatedString) ∨
    (∃ ch, decode w = .adcsample ch ∧ s.adcReady = false ∧ r = .adcNotReady) := by
  obtain ⟨hdrain, hsent, hreport, hdone⟩ := decode_ne_event (w := w)
  cases hd : decode w with
  | txinit bd =>
    rw [hd] at h
    exact absurd h (execTxinit_ne_refused hf bd)
  | txput b =>
    rw [hd] at h
    exact .inr (.inr (.inl ⟨.inl ⟨b, rfl⟩, execTxput_refused hf h⟩))
  | txputs p =>
    rw [hd] at h
    obtain hready | hends := execTxputs_refused hf h
    · exact .inr (.inr (.inl ⟨.inr ⟨p, rfl⟩, hready⟩))
    · exact .inr (.inr (.inr (.inl ⟨p, rfl, hends⟩)))
  | adccfg df =>
    rw [hd] at h
    exact .inr (.inl ⟨df, rfl, execAdccfg_refused hf h⟩)
  | adcsample ch =>
    rw [hd] at h
    exact .inr (.inr (.inr (.inr ⟨ch, rfl, execAdcsample_refused hf h⟩)))
  | drain => exact absurd hd hdrain
  | txSent => exact absurd hd hsent
  | adcDone v => exact absurd hd (hdone v)
  | report => exact absurd hd hreport
  | reserved v =>
    rw [hd] at h
    cases h
    exact .inl ⟨by rw [decode_eq_reserved hd], rfl⟩

/-! ### The other moves -/

theorem enqueueStep_ne_refused (k : EnqLabel) : enqueueStep k s ≠ .refused r := by
  unfold enqueueStep
  (repeat' split) <;> simp

/-- The foreground never refuses: the factor of an `ADCCFG` in progress was tested at acceptance
(42_adc_sampler.md R184). -/
theorem perform_foreground_ne_refused (hi : argFits s) : perform .foreground s ≠ .refused r := by
  rw [perform_foreground]
  cases hf : s.fgpc with
  | enq k => exact enqueueStep_ne_refused k
  | cfg k =>
    rw [argFits, hf] at hi
    obtain ⟨code, hc⟩ := Option.isSome_iff_exists.1 hi.2
    simp [hc]
  | idle | init | str | smp => simp

/-- An enabled `DRAIN` answers a next state or faults. -/
theorem perform_drain_ne_refused : perform .drain s ≠ .refused r := by
  cases hen : s.drainEnabled with
  | false => simp [perform_disabled (m := .drain) hen]
  | true =>
    have hact : perform .drain s = s.drainAction := (perform_drain hen).trans (if_pos hen)
    rw [hact, State.drainAction]
    (repeat' split) <;> simp

theorem perform_txSent_ne_refused : perform .txSent s ≠ .refused r := by
  cases hu : s.udre with
  | false => simp [perform_txSent hu]
  | true => simp [perform_disabled (m := .txSent) (by rw [State.enabled, State.txSentEnabled, hu]; rfl)]

theorem perform_adcDone_ne_refused (v : Sample) : perform (.adcDone v) s ≠ .refused r := by
  cases hbusy : s.adsc with
  | false => simp [perform_disabled (m := .adcDone v) hbusy]
  | true => simp [perform_adcDone hbusy]

/-! ### A move -/

/-- A move that is refused is one its agent can take. -/
theorem enabled_of_perform_refused {m : Move} (h : perform m s = .refused r) : s.enabled m = true := by
  by_contra hen
  rw [perform_disabled (Bool.eq_false_iff.2 hen)] at h
  cases h

/-- A refused command was presented at a ready port. -/
theorem perform_command_refused {w : Cmd} (h : perform (.command w) s = .refused r) :
    s.portReady = true ∧ exec (decode w) s = .refused r := by
  have hport : s.portReady = true := enabled_of_perform_refused h
  exact ⟨hport, perform_command hport w ▸ h⟩

/-- A refused `REPORT` was the host's own step at `FGPC = IDLE`. -/
theorem perform_report_refused (h : perform .report s = .refused r) : s.fgpc = .idle ∧ execReport s = .refused r := by
  have hidle : s.fgpc = .idle := beq_iff_eq.1 (enabled_of_perform_refused h)
  exact ⟨hidle, perform_report hidle ▸ h⟩

end

/-! ### The statement -/

/-- Settles O13: a refused move is a command at a ready port or a `REPORT` at `FGPC = IDLE`, whose refusals the laws above
list; picking the move changes nothing that they read. -/
theorem refusalsAreContractViolations : Obligations.RefusalsAreContractViolations := by
  intro s r hi hstep
  obtain ⟨ms, n, hpick⟩ := s.afterPick_eq
  have h : perform s.nextMove { s with script := ms, draws := n } = .refused r := hpick ▸ hstep
  generalize s.nextMove = m at h ⊢
  cases m with
  | command w =>
    obtain ⟨hport, hexec⟩ := perform_command_refused h
    have hviolation := exec_decode_refused ((State.portReady_iff _).1 hport).1 hexec
    exact .inl ⟨w, rfl, hport, hviolation⟩
  | report =>
    obtain ⟨hidle, hexec⟩ := perform_report_refused h
    have hviolation := execReport_refused hidle hexec
    exact .inr ⟨rfl, hidle, hviolation⟩
  | foreground => exact absurd h (perform_foreground_ne_refused hi.command.arg)
  | drain => exact absurd h perform_drain_ne_refused
  | txSent => exact absurd h perform_txSent_ne_refused
  | adcDone v => exact absurd h (perform_adcDone_ne_refused v)
  | writeGie b =>
    rw [perform_writeGie] at h
    cases h
  | storeStr a v =>
    rw [perform_storeStr] at h
    cases h

end Sys2Proof.Machine
end

section
/-! PROOF. The host's own writes (60_exceptions.md R252; 20_memory.md R63, R79): `STR` is written by the host's store only,
and that store is held off the string of the running `TXPUTS`. -/

namespace Sys2Proof.Machine

open Sys2Proof.Safety

section
variable {s t : State}

/-- `STR` is written by the host's store of one byte outside the running string only (20_memory.md R63). -/
theorem Moved.str_cases (h : Moved s t) :
    t.str = s.str ∨ ∃ a v, s.readsString a = false ∧ t.str = s.str.write a.toNat v := by
  cases h with
  | storeStr a v hout => exact .inr ⟨a, v, hout, rfl⟩
  | _ => exact .inl rfl

/-- No change of state touches the string of the running `TXPUTS` (20_memory.md R79). -/
theorem Moved.read_runningString {b : Half} (h : Moved s t) (hb : s.readsString b = true) :
    t.str.read b.toNat = s.str.read b.toNat := by
  obtain hsame | ⟨a, v, hout, hwrite⟩ := h.str_cases
  · rw [hsame]
  · have hne : b.toNat ≠ a.toNat := fun heq => by
      rw [BitVec.eq_of_toNat_eq heq, hout] at hb
      cases hb
    rw [hwrite]
    exact Memory.read_write_other s.str a.toNat b.toNat v hne

end

/-- Settles O57: the two writes as the moves that make them, and the running string along every change of `Moved`. -/
theorem hostWritesWithinContract : Obligations.HostWritesWithinContract := by
  refine ⟨fun s b => ⟨fun hf => ?_, fun hf => ?_⟩, fun s a v hwf => ⟨fun hout => ?_, fun hin => ?_⟩,
    fun s t a hstep hin => ?_⟩
  · rw [perform_writeGie, if_pos hf]
  · rw [perform_writeGie, if_neg hf]
  · rw [← readsString_iff] at hout
    rw [perform_storeStr, if_neg hout]
    exact ⟨_, rfl, rfl, Memory.read_write_same hwf a.toNat v,
      fun b hne => Memory.read_write_other s.str a.toNat b v hne⟩
  · rw [← readsString_iff] at hin
    rw [perform_storeStr, if_pos hin]
  · obtain ⟨ms, n, hmoved⟩ := step_moved hstep
    exact hmoved.read_runningString ((readsString_iff _ a).2 hin)

end Sys2Proof.Machine
end

section
/-! PROOF. The frames of `DRAIN`, `TX_SENT` and `REPORT` (60_exceptions.md R239, R240; 41_tx_drain.md R152, R158;
43_host_periodic_task.md R210), each as one equation, and that `DRAIN` removes its cause (60_exceptions.md R235). -/

namespace Sys2Proof.Machine

open Sys2Proof.Safety

section
variable {s t : State}

/-! ### `DRAIN` and `TX_SENT` -/

/-- The two events write `TAIL`, `UCTRL`, `USTAT`, `TXDATA` and the histories. -/
def EventFrame (s t : State) : Prop :=
  t = { s with
    tail := t.tail, uctrl := t.uctrl, ustat := t.ustat, txdata := t.txdata, txlog := t.txlog, wire := t.wire }

/-- Neither event touches the foreground, the converter, `STR` or the schedule. -/
theorem EventFrame.others (h : EventFrame s t) :
    sameForeground s t ∧ sameConverter s t ∧ sameStr s t ∧ sameSchedule s t :=
  ⟨⟨congrArg (·.next) h, congrArg (·.byte) h, congrArg (·.ptr) h, congrArg (·.result) h, congrArg (·.arg) h,
      congrArg (·.fgpc) h, congrArg (·.instr) h⟩,
    ⟨congrArg (·.amux) h, congrArg (·.actrl) h, congrArg (·.adata) h⟩, fun a => congrArg (·.str.read a) h,
    ⟨congrArg (·.hostpc) h, congrArg (·.script) h, congrArg (·.draws) h⟩⟩

theorem execDrain_frame (h : execDrain s = .next t) : EventFrame s t := by
  obtain ⟨-, rfl⟩ | ⟨-, b, -, rfl⟩ := drainAction_next (execDrain_next h).2
  · rfl
  · rfl

/-- Of `UCTRL` and `USTAT` `DRAIN` writes `UDRIE` and `UDRE` only, and it sends nothing. -/
theorem execDrain_keeps (h : execDrain s = .next t) :
    t.uctrl &&& 0xDF = s.uctrl &&& 0xDF ∧ t.ustat &&& 0xDF = s.ustat &&& 0xDF ∧ t.wire = s.wire := by
  obtain ⟨-, rfl⟩ | ⟨-, b, -, rfl⟩ := drainAction_next (execDrain_next h).2
  · exact ⟨and_withFlag_other udrieMask 0xDF _ false (by decide), rfl, rfl⟩
  · exact ⟨rfl, and_withFlag_other udreMask 0xDF _ false (by decide), rfl⟩

/-- On an empty buffer `DRAIN` clears `UDRIE`; otherwise the write of `TXDATA` clears `UDRE`. -/
theorem execDrain_disables (h : execDrain s = .next t) : t.drainEnabled = false := by
  obtain ⟨-, rfl⟩ | ⟨-, b, -, rfl⟩ := drainAction_next (execDrain_next h).2
  · exact drainEnabled_eq_false (State.setUdrie_udrie s false)
  · rw [State.drainEnabled, State.writeTxdata_udre, Bool.and_false]

theorem execTxSent_frame (h : execTxSent s = .next t) : EventFrame s t := by
  obtain ⟨-, rfl⟩ := execTxSent_next h
  rfl

/-- `TX_SENT` writes `UDRE` of `USTAT` and `WIRE` only. -/
theorem execTxSent_keeps (h : execTxSent s = .next t) :
    t.tail = s.tail ∧ t.uctrl = s.uctrl ∧ t.ustat &&& 0xDF = s.ustat &&& 0xDF ∧ t.txdata = s.txdata ∧
      t.txlog = s.txlog := by
  obtain ⟨-, rfl⟩ := execTxSent_next h
  exact ⟨rfl, rfl, and_withFlag_other udreMask 0xDF _ true (by decide), rfl, rfl⟩

/-! ### `REPORT` -/

/-- `REPORT` writes `DOUT` and the host's place, and what the commands it presents latch. -/
theorem execReport_frame (h : execReport s = .next t) :
    t = { s with
      dout := t.dout, hostpc := t.hostpc, arg := t.arg, byte := t.byte, instr := t.instr, fgpc := t.fgpc } := by
  obtain ⟨-, ⟨-, -, -, rfl⟩ | ⟨-, rfl⟩ | ⟨c, rest, -, -, rfl⟩⟩ := execReport_next h
  · rfl
  · rfl
  · rfl

/-- A step of `REPORT` that presents a command does not write `DOUT`. -/
theorem execReport_dout (h : execReport s = .next t) (hh : s.hostpc ≠ .sampling) : t.dout = s.dout := by
  obtain ⟨-, ⟨-, -, -, rfl⟩ | ⟨hdecide, -⟩ | ⟨c, rest, -, -, rfl⟩⟩ := execReport_next h
  · rfl
  · exact absurd hdecide hh
  · rfl

/-- The deciding step of `REPORT` is the host's own and presents no command. -/
theorem execReport_decide_foreground (h : execReport s = .next t) (hh : s.hostpc = .sampling) :
    sameForeground s t := by
  obtain ⟨hf, -⟩ := execReport_next h
  rw [execReport_sampling hf hh] at h
  cases h
  exact ⟨rfl, rfl, rfl, rfl, rfl, rfl, rfl⟩

end

/-! ### The statements -/

/-- Settles O33: either branch of the action clears one of the three flags of the trigger. -/
theorem drainRemovesItsCause : Obligations.DrainRemovesItsCause :=
  fun _ _ h => execDrain_disables h

/-- Settles O60: each unchanged field is read off the equation of the frame, the bits off each one's own writes. -/
theorem eventAndReportFrame : Obligations.EventAndReportFrame := by
  refine ⟨fun s t h => ?_, fun s t h => ?_, fun s t h => ?_⟩
  · have hframe := execDrain_frame h
    obtain ⟨huctrl, hustat, hwire⟩ := execDrain_keeps h
    exact ⟨congrArg (·.buf) hframe, congrArg (·.head) hframe, huctrl, hustat, congrArg (·.uframe) hframe,
      congrArg (·.bauddiv) hframe, congrArg (·.gie) hframe, hwire, congrArg (·.dout) hframe, hframe.others⟩
  · have hframe := execTxSent_frame h
    obtain ⟨htail, huctrl, hustat, htxdata, htxlog⟩ := execTxSent_keeps h
    exact ⟨⟨congrArg (·.buf) hframe, congrArg (·.head) hframe, htail⟩, huctrl, congrArg (·.uframe) hframe,
      congrArg (·.bauddiv) hframe, htxdata, hustat, congrArg (·.gie) hframe, htxlog, congrArg (·.dout) hframe,
      hframe.others⟩
  · have hframe := execReport_frame h
    exact ⟨⟨congrArg (·.buf) hframe, congrArg (·.head) hframe, congrArg (·.tail) hframe⟩,
      ⟨congrArg (·.uctrl) hframe, congrArg (·.uframe) hframe, congrArg (·.bauddiv) hframe, congrArg (·.ustat) hframe,
        congrArg (·.txdata) hframe, congrArg (·.gie) hframe, congrArg (·.txlog) hframe, congrArg (·.wire) hframe⟩,
      ⟨congrArg (·.amux) hframe, congrArg (·.actrl) hframe, congrArg (·.adata) hframe⟩,
      fun a => congrArg (·.str.read a) hframe, congrArg (·.next) hframe, congrArg (·.ptr) hframe,
      congrArg (·.result) hframe, congrArg (·.script) hframe, congrArg (·.draws) hframe, execReport_dout h,
      execReport_decide_foreground h⟩

end Sys2Proof.Machine
end

section
/-! PROOF. The statement of the family 70_reset_and_hazards.md: no agent but the host acts at reset (R261). -/

namespace Sys2Proof.Safety

open Sys2Proof.Machine

section
variable {s : State}

/-- No byte is in flight at reset, so `TX_SENT` is not enabled (41_tx_drain.md R158). -/
theorem ResetLike.udre (h : ResetLike s) : s.udre = true := by
  rw [State.udre, h.ustat]
  decide

/-- `GIE` is 0 at reset, so the trigger of `DRAIN` does not hold (41_tx_drain.md R150). -/
theorem ResetLike.not_drainTrigger (h : ResetLike s) : ¬ (s.gie = true ∧ s.udrie = true ∧ s.udre = true) := by
  simp [h.gie]

/-- The foreground has no micro-step to take in a state with no command in progress. -/
theorem perform_foreground_idle (hidle : s.fgpc = .idle) : perform .foreground s = .next s :=
  perform_disabled (by simp [State.enabled, hidle])

end

/-- Settles O9: the enabling condition of each event is false in the reset values, and `FGPC` is `IDLE`. -/
theorem onlyHostActsAtReset : Obligations.OnlyHostActsAtReset := by
  intro s h
  obtain ⟨hexecDrain, hdrain⟩ := (drainTrigger s).1 h.not_drainTrigger
  obtain ⟨hexecSent, hsent⟩ := (txSentStep s).2 h.udre
  have hadc (v : Sample) := (adcDoneStep s v).2 h.adsc
  exact ⟨hexecDrain, hexecSent, fun v => (hadc v).1, State.inProgress_eq_none.2 h.fgpc, hdrain, hsent,
    perform_foreground_idle h.fgpc, fun v => (hadc v).2⟩

end Sys2Proof.Safety
end
